-- ==== Sys2Proof/Word.lean ====
section
/-! DEFINITION. The word types of the block (00_scope.md R9). -/

namespace Sys2Proof

/-- A byte: 8 bits, unsigned (R9). The width of a bus data transfer is the parameter `DATA_WIDTH` (R6). -/
abbrev Byte := BitVec 8

/-- A command word (R70) or a response word (R80). -/
abbrev Word := BitVec 16

/-- One bit: a control bit, a status flag, a line level or a latch. `true` is 1 and `false` is 0. -/
abbrev Bit := Bool

/-- The 3-bit transaction status (R81). -/
abbrev Status := BitVec 3

end Sys2Proof
end

