-- ==== Sys2Proof/Config.lean ====
section
/-! DEFINITION. The implementation parameters (00_scope.md R6, R7) and the free values.
An `opaque` constant below has no body: nothing can be proved of its value. -/

namespace Sys2Proof

/-- A configuration value with its width: both are OPEN (R31, R58; 93_implementation_defined.md S3), and a value
is of its width by type. -/
structure ConfigValue where
  width : Nat
  bits : BitVec width
  deriving DecidableEq, Repr, Inhabited

/-- The parameters of R6 (log 7). -/
structure Params where
  /-- `TIMEOUT`: polls per timed wait (R6, R121). -/
  timeout : Nat
  /-- `RECOVERY_CAP`: most clock pulses in one recovery (R6, R172). -/
  recoveryCap : Nat
  /-- `RECOVERY_EXPECTED`: informative only; no rule's control flow reads it (R6). -/
  recoveryExpected : Nat
  /-- `DATA_WIDTH`: width of every bus data transfer (R6, R58; log 24). -/
  dataWidth : Nat
  /-- `DEV_ADDR7`: the slave's device address (R6, R54). -/
  devAddr7 : BitVec 7
  /-- `CFG_TIMING`: the value INIT programs into the timing register, and its width (R6, R31, S3). -/
  cfgTiming : ConfigValue
  /-- `CFG_MODE`: the value INIT programs into the mode fields, and its width (R6, R31, S3). -/
  cfgMode : ConfigValue
  /-- `BUS_RATE`: no rule reads it (R6, R248). -/
  busRate : Nat
  /-- `HALF_PERIOD`: length of the delay after a recovery clock edge; no rule reads it (R6, R248). -/
  halfPeriod : Nat
  /-- `NESTED_RECOVERY`: whether recovery's restart and stop may themselves recover (R6, R180). -/
  nestedRecovery : Bool
  deriving DecidableEq, Repr

/-- The parameter constraints of R7 (`DEV_ADDR7` is 7 bits wide by its type). -/
def Params.legal (p : Params) : Bool := decide (1 ≤ p.timeout) && decide (1 ≤ p.recoveryCap)

/-- OPEN parameter `DEV_ADDR7` (R6). -/
opaque Config.devAddr7 : BitVec 7
/-- OPEN parameter `CFG_TIMING`, width and value (R6, S3). -/
opaque Config.cfgTiming : ConfigValue
/-- OPEN parameter `CFG_MODE`, width and value (R6, S3). -/
opaque Config.cfgMode : ConfigValue
/-- OPEN parameter `BUS_RATE` (R6). -/
opaque Config.busRate : Nat
/-- OPEN parameter `HALF_PERIOD` (R6). -/
opaque Config.halfPeriod : Nat

/-- Free value: a bit the environment answers once the answers listed in State have run out
(R11; log 4). It is applied to the counter `Env.taken`. -/
opaque Config.freeBit : Nat → Bit

/-- Free value: a byte the environment answers once the listed answers have run out (R11; log 4), and
the `DATA` of a `BUS_FAULT` response (R80; log 5). It is applied to the counter `Env.taken`. -/
opaque Config.freeByte : Nat → Byte

/-- The defaults of R6, with the OPEN parameters left open. -/
def Params.default : Params where
  timeout := 1300
  recoveryCap := 20
  recoveryExpected := 9
  dataWidth := 8
  devAddr7 := Config.devAddr7
  cfgTiming := Config.cfgTiming
  cfgMode := Config.cfgMode
  busRate := Config.busRate
  halfPeriod := Config.halfPeriod
  nestedRecovery := false

end Sys2Proof
end

