-- ==== Sys2Proof/Syntax.lean ====
section
/-! DEFINITION. The commands: one constructor per row of spec/opcode_table.json (30_encoding.md R72). -/

namespace Sys2Proof

/-- A command of the block. -/
inductive Instr where
  /-- `INIT` (R123). -/
  | init
  /-- `START` (R124). -/
  | start
  /-- `STOP` (R125). -/
  | stop
  /-- `RESTART` (R126). -/
  | restart
  /-- `WAITIDLE` (R127). -/
  | waitidle
  /-- `ACK` (R128). -/
  | ack
  /-- `NACK` (R129). -/
  | nack
  /-- `WRITE #b` (R131): `b` is the byte to transmit. -/
  | write (b : Byte)
  /-- `READ` (R132): `last` is the `L` flag, `true` for READ LAST and `false` for READ MORE. -/
  | read (last : Bit)
  /-- `RECOVER` (R171): internal; the host may not issue it (R75). -/
  | recover
  /-- `BCDENC #n` (R101). -/
  | bcdenc (n : Byte)
  /-- `BCDDEC #b` (R102). -/
  | bcddec (b : Byte)
  deriving DecidableEq, Repr

end Sys2Proof
end

