-- ==== Sys2Proof/Machine/State.lean ====
section
/-! DEFINITION. The state of the block as plain data (10_state.md R20), with the model's own fields for the
parameters (R6), the host's moves (R233) and the environment's answers (R11), and the state after reset. -/

namespace Sys2Proof.Machine

/-- The model-fault codes (60_exceptions.md R203). -/
inductive FaultCode where
  /-- Code 1, `F_ILLEGAL_CMD`: the word decodes to ILLEGAL. -/
  | illegalCmd
  /-- Code 2, `F_NOT_INIT`: a bus command while `ON = 0`. -/
  | notInit
  /-- Code 3, `F_BCD_DOMAIN`: an operand outside the codec's domain. -/
  | bcdDomain
  /-- Code 4, `F_BUSY`: a word offered while `phase` is not IDLE. -/
  | busy
  deriving DecidableEq, Repr

/-- The steps of the recovery machine, in the order of 43_bus_recovery.md R171: the states of its
table, with one constructor per step (R12). -/
inductive RecStep where
  /-- `REC_ENTER`: `RecBegin`, `pcnt <- 0`. -/
  | enter
  /-- `REC_DISABLE`: `RegWrite(ON, 0)`. -/
  | disable
  /-- `REC_REINIT`, first step: `RegWrite(CFG_TIMING, …)`. -/
  | reinitTiming
  /-- `REC_REINIT`, second step: `RegWrite(CFG_MODE, …)`. -/
  | reinitMode
  /-- `REC_REINIT`, third step: `RegWrite(ON, 1)`. -/
  | reinitOn
  /-- `REC_TAKE`, first step: `PIN_OWNER <- MANUAL`. -/
  | takeOwner
  /-- `REC_TAKE`, second step: `PinDir(SDA, IN)`. -/
  | takeSda
  /-- `REC_TAKE`, third step: `PinDir(SCL, OUT)`. -/
  | takeScl
  /-- `REC_LOW`, first step: `PinWrite(SCL, 0)`. -/
  | lowWrite
  /-- `REC_LOW`, second step: `Delay(HALF_PERIOD)`. -/
  | lowDelay
  /-- `REC_HIGH`, first step: `PinWrite(SCL, 1)`. -/
  | highWrite
  /-- `REC_HIGH`, second step: `Delay(HALF_PERIOD)`, `pcnt <- pcnt + 1`. -/
  | highDelay
  /-- `REC_SAMPLE`: `PinRead(SDA)`. -/
  | sample
  /-- `REC_RELEASE`: `PIN_OWNER <- PERIPH`. -/
  | release
  /-- `REC_RESTART`, first step: `RegWrite(RSEN, 1)`. -/
  | restartWrite
  /-- `REC_RESTART`: the first poll of `TimedWait(RSEN, 0)`. -/
  | restartPoll
  /-- `REC_RESTART`: a later poll of `TimedWait(RSEN, 0)`. -/
  | restartMore
  /-- `REC_STOP`, first step: `RegWrite(PEN, 1)`. -/
  | stopWrite
  /-- `REC_STOP`: the first poll of `TimedWait(PEN, 0)`. -/
  | stopPoll
  /-- `REC_STOP`: a later poll of `TimedWait(PEN, 0)`. -/
  | stopMore
  /-- `REC_EXIT`: `RecEnd`. -/
  | exit
  deriving DecidableEq, Repr

/-- The next step of a command (10_state.md R22). -/
inductive Stage where
  /-- The `n`-th line of the command's pseudocode, from 0; for a guarded wait, its first poll. -/
  | line (n : Nat)
  /-- A later poll of the guarded wait that is the `n`-th line. -/
  | more (n : Nat)
  /-- The recovery machine, entered by a guarded wait of the command that timed out (R170). -/
  | recovery (r : RecStep)
  /-- The guarded wait's `respond(BUS_FAULT, any byte)` after recovery has returned (R122, R205). -/
  | busFault
  deriving DecidableEq, Repr

/-- `phase` (10_state.md R22). -/
inductive Phase where
  /-- `IDLE`: no command in progress. -/
  | idle
  /-- `BUSY(op, stage)`. -/
  | busy (op : Instr) (stage : Stage)
  /-- `FAULTED`: a model fault has been raised. -/
  | faulted
  deriving DecidableEq, Repr

/-- The response register's content (30_encoding.md R80). -/
structure Response where
  status : Status
  data : Byte
  deriving DecidableEq, Repr

/-- A peripheral field the block writes, with the value written (R30 to R38). -/
inductive RegWr where
  | cfgTiming (v : ConfigValue)
  | cfgMode (v : ConfigValue)
  | on (v : Bit)
  | sen (v : Bit)
  | rsen (v : Bit)
  | pen (v : Bit)
  | rcen (v : Bit)
  | acken (v : Bit)
  | ackdt (v : Bit)
  | trn (v : Byte)
  deriving DecidableEq, Repr

/-- A status flag the block polls (R32 to R34, R36, R39, R41, R42). -/
inductive Flag where
  | sen
  | rsen
  | pen
  | acken
  | tbf
  | rbf
  | trstat
  deriving DecidableEq, Repr

/-- Who drives the two bus lines (R43): `PERIPH` or `MANUAL`. -/
inductive Owner where
  | periph
  | manual
  deriving DecidableEq, Repr

/-- A pin direction (R44): `IN` or `OUT`. -/
inductive Dir where
  | input
  | output
  deriving DecidableEq, Repr

/-- One of the two bus pins (R44). -/
inductive Pin where
  | sda
  | scl
  deriving DecidableEq, Repr

/-- An entry of the event log (10_state.md R28). -/
inductive Event where
  /-- `Wr(P, v)`. -/
  | wr (w : RegWr)
  /-- `Poll(P, b)`. -/
  | poll (p : Flag) (b : Bit)
  /-- `Rd(RCV, v)`. -/
  | rd (v : Byte)
  /-- `Dir(pin, d)`. -/
  | dir (pin : Pin) (d : Dir)
  /-- `Own(o)`. -/
  | own (o : Owner)
  /-- `Scl(b)`. -/
  | scl (b : Bit)
  /-- `Sda(b)`. -/
  | sda (b : Bit)
  /-- `Delay`. -/
  | delay
  /-- `RecBegin`. -/
  | recBegin
  /-- `RecEnd`. -/
  | recEnd
  deriving DecidableEq, Repr

/-- A move of the host still to come (70_reset_and_hazards.md R233; log 3). -/
inductive HostMove where
  /-- Offer the word once the block is IDLE: the host that keeps its duty (R240). -/
  | issue (w : Word)
  /-- Offer the word now, whatever the phase: an overlapping offer if the block is BUSY (R240). -/
  | offer (w : Word)
  /-- Do nothing for one step of the block. -/
  | hold
  /-- Reset the device (R230); it waits until no command is in progress (R233; log 8). -/
  | reset
  /-- An attempt that the host runs again until it succeeds, with no bound (R97, R241; log 25): the words
  offered so far, those still to offer, and the statuses combined so far. -/
  | attempt (offered left : List Word) (acc : Status)
  deriving DecidableEq, Repr

/-- The environment's answers still to come (R11; log 4): `bits` answers polls and samples of SDA in the
order of the steps, `bytes` answers reads of RCV; `taken` counts the free values used. Once `bits` has run out,
the answers of `cycle` come over and over, for ever; if it is empty, free values do. -/
structure Env where
  bits : List Bit
  bytes : List Byte
  taken : Nat
  cycle : List Bit
  deriving DecidableEq, Repr

/-- The state of the block (10_state.md R20), and the model's own `params`, `host` and `env`. -/
structure State where
  /-- R22. -/
  phase : Phase
  /-- R23. -/
  cnt : Nat
  /-- R24. -/
  pcnt : Nat
  /-- R25. -/
  rxd : Byte
  /-- R26; `none` is NONE. -/
  resp : Option Response
  /-- R27; `none` is NONE. -/
  fault : Option FaultCode
  /-- R28, in step order. -/
  ev : List Event
  /-- `ON` (R30). -/
  on : Bit
  /-- `CFG_TIMING` (R31). -/
  cfgTiming : ConfigValue
  /-- `CFG_MODE` (R31). -/
  cfgMode : ConfigValue
  /-- `SEN` (R32). -/
  sen : Bit
  /-- `RSEN` (R33). -/
  rsen : Bit
  /-- `PEN` (R34). -/
  pen : Bit
  /-- `RCEN` (R35). -/
  rcen : Bit
  /-- `ACKEN` (R36). -/
  acken : Bit
  /-- `ACKDT` (R37). -/
  ackdt : Bit
  /-- `TRN` (R38). -/
  trn : Byte
  /-- `PIN_OWNER` (R43). -/
  pinOwner : Owner
  /-- `SDA_DIR` (R44). -/
  sdaDir : Dir
  /-- `SCL_DIR` (R44). -/
  sclDir : Dir
  /-- `SCL_LAT` (R45). -/
  sclLat : Bit
  /-- The parameters of the instance (R6); no step changes them. -/
  params : Params
  /-- The host's moves still to come (R233). -/
  host : List HostMove
  /-- The environment's answers still to come (R11). -/
  env : Env
  deriving DecidableEq, Repr

/-- Why a step is no step. -/
inductive Fault where
  /-- The block is FAULTED (R204: no step is enabled until a device reset); the step function and every
  command's meaning raise it, with the model-fault record. Safe: the spec gives no step here. -/
  | stopped (record : Option FaultCode)
  deriving DecidableEq, Repr

/-- Why a step has no meaning. -/
inductive Refusal where
  /-- A command the model gives no meaning; raised by no command of this model. Safe: the run stops. -/
  | notModelled (mnemonic : String)
  deriving DecidableEq, Repr

/-- What one step does, before it is carried out: run a command's step, be done with the state given, or
find no step enabled. -/
inductive Turn where
  | run (i : Instr) (s : State)
  | done (s : State)
  | stopped (record : Option FaultCode)
  deriving DecidableEq, Repr

/-- How one poll leaves a timed wait (R121). -/
inductive WaitEnd where
  /-- The poll read the wanted value: `OK`. -/
  | ok
  /-- The last poll of the budget read the other value: `TIMEOUT`. -/
  | timeout
  /-- The wait goes on. -/
  | again
  deriving DecidableEq, Repr

/-- The state after a device reset (10_state.md R48), for given parameters, moves and answers to come.
R48 leaves `rxd`, `cfgTiming`, `cfgMode`, `ackdt`, `trn`, `sdaDir`, `sclDir` and `sclLat` unspecified: the
values here are the model's (DESIGN CHOICE, unsafe; log 6). -/
def State.afterReset (params : Params) (host : List HostMove) (env : Env) : State where
  phase := .idle
  cnt := 0
  pcnt := 0
  rxd := 0#8
  resp := none
  fault := none
  ev := []
  on := false
  cfgTiming := ⟨params.cfgTiming.width, 0#_⟩
  cfgMode := ⟨params.cfgMode.width, 0#_⟩
  sen := false
  rsen := false
  pen := false
  rcen := false
  acken := false
  ackdt := false
  trn := 0#8
  pinOwner := .periph
  sdaDir := .input
  sclDir := .input
  sclLat := false
  params := params
  host := host
  env := env

/-- The machine right after reset (R230): the default parameters, no move and no answer listed. -/
def State.reset : State := State.afterReset Params.default [] ⟨[], [], 0, []⟩

end Sys2Proof.Machine
end

