-- ==== Sys2Proof/Machine/Operands.lean ====
section
/-! DEFINITION. The operand forms of the commands: a bus data transfer's byte (00_scope.md R6), the BCD digits of a byte (41_bcd_codec.md R100), the
integer operand of BCDENC (R71) and the acknowledge value READ's `L` selects (42_bus_primitives.md R132). -/

namespace Sys2Proof.Machine

/-- The byte a bus data transfer carries: its low `DATA_WIDTH` bits, zero-extended (R6, R58; log 24). With
the default width of 8 it is the byte itself. -/
def busByte (p : Params) (v : Byte) : Byte := (v.setWidth p.dataWidth).setWidth 8

/-- The tens digit of a BCD byte, `b[7:4]` (R100). -/
def bcdTens (b : Byte) : Nat := (b.extractLsb' 4 4).toNat

/-- The units digit of a BCD byte, `b[3:0]` (R100). -/
def bcdUnits (b : Byte) : Nat := (b.extractLsb' 0 4).toNat

/-- A byte is valid BCD: both digits are in 0..9 (R100). -/
def validBcd (b : Byte) : Bool := decide (bcdTens b ≤ 9) && decide (bcdUnits b ≤ 9)

/-- The BCD byte of an integer, `{t[3:0], u[3:0]}` with `t = n / 10` and `u = n % 10` (R101). -/
def bcdByte (n : Nat) : Byte := BitVec.ofNat 4 (n / 10) ++ BitVec.ofNat 4 (n % 10)

/-- The integer of a BCD byte, `t * 10 + u` (R102). -/
def bcdValue (b : Byte) : Nat := bcdTens b * 10 + bcdUnits b

/-- The integer operand of BCDENC: `D`, unsigned, as it is (R71). -/
def intOperand (d : Byte) : Nat := d.toNat

/-- BCDENC's domain is 0..99 (R101). -/
def inBcdDomain (n : Nat) : Bool := decide (n ≤ 99)

/-- The acknowledge-phase value READ sends after its byte: 0 (ACK) when more bytes are expected, 1 (NACK)
after the final one (R132). -/
def ackValue (last : Bit) : Bit := if last then true else false

end Sys2Proof.Machine
end

