-- ==== Sys2Proof/Machine/Flags.lean ====
section
/-! DEFINITION. The transaction status and its algebra (30_encoding.md R80 to R86), the response word, the
fault numbers (60_exceptions.md R203) and the rule by which a poll updates a control-bit copy (R10). -/

namespace Sys2Proof.Machine

/-- `NOT_YET` (R81). -/
def statusNotYet : Status := 0b000#3
/-- `SUCCESS` (R81). -/
def statusSuccess : Status := 0b001#3
/-- `BUS_FAULT` (R81). -/
def statusBusFault : Status := 0b010#3
/-- `COLLISION` (R81, R86): no command produces it. -/
def statusCollision : Status := 0b100#3

/-- `combine(a, b)` (R82). -/
def combine (a b : Status) : Status := a ||| b

/-- An accumulated status is successful (R83). -/
def successful (acc : Status) : Bool := acc == statusSuccess

/-- `fold combine NOT_YET` over the statuses of an attempt (R84, R97). -/
def accumulate (sts : List Status) : Status := sts.foldl combine statusNotYet

/-- The response word: bits 15:11 are 0, 10:8 the status, 7:0 the data (R80). -/
def Response.word (r : Response) : Word := 0#5 ++ r.status ++ r.data

/-- The number of a model-fault code (R203). -/
def FaultCode.number : FaultCode → Nat
  | .illegalCmd => 1
  | .notInit => 2
  | .bcdDomain => 3
  | .busy => 4

/-- The block's copy of the control bit that a poll of `p` reading `b` reports on (R10, D42): a poll of
SEN, RSEN, PEN or ACKEN that reads 0 clears that copy, a poll of RBF that reads 1 clears RCEN. -/
def State.notePoll (p : Flag) (b : Bit) (s : State) : State :=
  match p, b with
  | .sen, false => { s with sen := false }
  | .rsen, false => { s with rsen := false }
  | .pen, false => { s with pen := false }
  | .acken, false => { s with acken := false }
  | .rbf, true => { s with rcen := false }
  | _, _ => s

end Sys2Proof.Machine
end

