-- ==== Sys2Proof/Machine/Ops.lean ====
section
/-! DEFINITION. The named operations of the block: draws, the pseudocode primitives of 00_scope.md R10, raising
a model fault (60_exceptions.md R203), entering and leaving recovery (R202, R205), responding, accepting a
command (42_bus_primitives.md R120) and the poll of a timed wait (R121). -/

namespace Sys2Proof.Machine

/-! ### Draws (R11) -/

/-- The environment's next bit: the next listed answer, else the first of the answers that come for ever,
else a free value (R11; log 4). -/
def Env.drawBit (e : Env) : Bit × Env :=
  match e.bits, e.cycle with
  | b :: rest, _ => (b, { e with bits := rest })
  | [], b :: rest => (b, { e with bits := rest })
  | [], [] => (Config.freeBit e.taken, { e with taken := e.taken + 1 })

/-- The environment's next byte: the next listed answer, else a free value (R11; log 4). -/
def Env.drawByte (e : Env) : Byte × Env :=
  match e.bytes with
  | v :: rest => (v, { e with bytes := rest })
  | [] => (Config.freeByte e.taken, { e with taken := e.taken + 1 })

/-- A byte on which no claim may rest: a free value, never a listed answer (R80; log 5). -/
def Env.anyByte (e : Env) : Byte × Env := (Config.freeByte e.taken, { e with taken := e.taken + 1 })

/-! ### The event log and the phase -/

/-- Append an event (R28). -/
def State.log (e : Event) (s : State) : State := { s with ev := s.ev ++ [e] }

/-- Command `i` goes on with the stage given (R22). -/
def State.goTo (i : Instr) (st : Stage) (s : State) : State := { s with phase := .busy i st }

/-! ### The pseudocode primitives (R10) -/

/-- The field write inside `RegWrite(P, v)`. A write of 0 to ON also clears the control bits (R30, D14). -/
def State.setReg (w : RegWr) (s : State) : State :=
  match w with
  | .cfgTiming v => { s with cfgTiming := v }
  | .cfgMode v => { s with cfgMode := v }
  | .on true => { s with on := true }
  | .on false =>
    { s with on := false, sen := false, rsen := false, pen := false, rcen := false, acken := false }
  | .sen v => { s with sen := v }
  | .rsen v => { s with rsen := v }
  | .pen v => { s with pen := v }
  | .rcen v => { s with rcen := v }
  | .acken v => { s with acken := v }
  | .ackdt v => { s with ackdt := v }
  | .trn v => { s with trn := v }

/-- `RegWrite(P, v)` (R10). -/
def State.regWrite (w : RegWr) (s : State) : State := (s.setReg w).log (.wr w)

/-- `Poll(P)`: a drawn bit; the copy of the control bit it reports on follows it (R10). -/
def State.poll (p : Flag) (s : State) : Bit × State :=
  let (b, env) := s.env.drawBit
  (b, (({ s with env := env } : State).notePoll p b).log (.poll p b))

/-- `rxd <- RegRead(RCV)`: a drawn byte, of a bus data transfer's width (R10, R58, R132). -/
def State.readRcv (s : State) : State :=
  let (v, env) := s.env.drawByte
  ({ s with env := env, rxd := busByte s.params v } : State).log (.rd (busByte s.params v))

/-- `PIN_OWNER <- o`, logged `Own(o)` (R43). -/
def State.setOwner (o : Owner) (s : State) : State := ({ s with pinOwner := o } : State).log (.own o)

/-- `PinDir(pin, d)` (R10). -/
def State.pinDir (pin : Pin) (d : Dir) (s : State) : State :=
  match pin with
  | .sda => ({ s with sdaDir := d } : State).log (.dir pin d)
  | .scl => ({ s with sclDir := d } : State).log (.dir pin d)

/-- `PinWrite(SCL, b)` (R10). -/
def State.pinWriteScl (b : Bit) (s : State) : State := ({ s with sclLat := b } : State).log (.scl b)

/-- `PinRead(SDA)`: a drawn bit (R10). -/
def State.pinReadSda (s : State) : Bit × State :=
  let (b, env) := s.env.drawBit
  (b, ({ s with env := env } : State).log (.sda b))

/-- `Delay(HALF_PERIOD)`: no state changes but the log (R10). -/
def State.delay (s : State) : State := s.log .delay

/-! ### Taking a model fault -/

/-- `raise Fault(c)`: the record is written and the phase is FAULTED; no access, no response (R203). -/
def State.raise (c : FaultCode) (s : State) : State := { s with fault := some c, phase := .faulted }

/-- No step of the block is enabled: it is FAULTED (R22) or a fault is recorded (R204). -/
def State.isStopped (s : State) : Bool := decide (s.phase = .faulted) || s.fault.isSome

/-! ### Responding -/

/-- `respond(st, d)`: the response register is written and the block is IDLE (R10, R26). -/
def State.respond (st : Status) (d : Byte) (s : State) : State :=
  { s with resp := some ⟨st, d⟩, phase := .idle }

/-- `respond(BUS_FAULT, any byte)` (R122, R205). -/
def State.respondBusFault (s : State) : State :=
  let (d, env) := s.env.anyByte
  ({ s with env := env } : State).respond statusBusFault d

/-! ### Entering and leaving recovery -/

/-- Timeout entry: nothing is saved, and control goes to `REC_ENTER` (R202). -/
def State.enterRecovery (i : Instr) (s : State) : State := s.goTo i (.recovery .enter)

/-- Return from recovery: back to the guarded wait, which responds BUS_FAULT; nothing is restored (R205). -/
def State.leaveRecovery (i : Instr) (s : State) : State := s.goTo i .busFault

/-! ### Accepting a command -/

/-- The bus commands, which need ON (R120). -/
def needsInit : Instr → Bool
  | .init => false
  | .start => true
  | .stop => true
  | .restart => true
  | .waitidle => true
  | .ack => true
  | .nack => true
  | .write _ => true
  | .read _ => true
  | .recover => false
  | .bcdenc _ => false
  | .bcddec _ => false

/-- The acceptance of a legal command by an idle block: the rest of R120, after its decode. -/
def State.accept (i : Instr) (s : State) : State :=
  if needsInit i && !s.on then s.raise .notInit else s.goTo i (.line 0)

/-! ### The timed wait -/

/-- One poll of `TimedWait(P, want)`: `first` says that it is the wait's first poll, which also holds the
wait's `cnt <- 0` (R121; log 11). -/
def State.timedPoll (p : Flag) (want : Bit) (first : Bool) (s : State) : WaitEnd × State :=
  let (b, s1) := s.poll p
  let s2 : State := { s1 with cnt := (if first then 0 else s1.cnt) + 1 }
  (if b == want then .ok else if s2.cnt == s2.params.timeout then .timeout else .again, s2)

end Sys2Proof.Machine
end

