-- ==== Sys2Proof/Machine/Recovery.lean ====
section
/-! DEFINITION. The bus-recovery state machine and the meaning of RECOVER (43_bus_recovery.md R170 to R180). -/

namespace Sys2Proof.Machine

/-- One poll of a wait of recovery's epilogue (R177): `TimedWait(P, 0)` with its result ignored, unless
NESTED_RECOVERY makes it a guarded wait, whose timeout enters recovery again (R180; log 12). -/
def State.epiloguePoll (i : Instr) (p : Flag) (first : Bool) (more next : RecStep) (s : State) : State :=
  match s.timedPoll p false first with
  | (.ok, s1) => s1.goTo i (.recovery next)
  | (.timeout, s1) =>
    if s1.params.nestedRecovery then s1.enterRecovery i else s1.goTo i (.recovery next)
  | (.again, s1) => s1.goTo i (.recovery more)

/-- `REC_SAMPLE`: the loop ends at a sample that reads 1 or after RECOVERY_CAP pulses (R171, R172). -/
def State.recSample (i : Instr) (s : State) : State :=
  let (b, s1) := s.pinReadSda
  if b || s1.pcnt == s1.params.recoveryCap then s1.goTo i (.recovery .release)
  else s1.goTo i (.recovery .lowWrite)

/-- One step of the recovery machine, for the command `i` whose wait timed out (R171). -/
def recoverStep (i : Instr) (r : RecStep) (s : State) : State :=
  match r with
  | .enter => (({ s with pcnt := 0 } : State).log .recBegin).goTo i (.recovery .disable)
  | .disable => (s.regWrite (.on false)).goTo i (.recovery .reinitTiming)
  | .reinitTiming => (s.regWrite (.cfgTiming s.params.cfgTiming)).goTo i (.recovery .reinitMode)
  | .reinitMode => (s.regWrite (.cfgMode s.params.cfgMode)).goTo i (.recovery .reinitOn)
  | .reinitOn => (s.regWrite (.on true)).goTo i (.recovery .takeOwner)
  | .takeOwner => (s.setOwner .manual).goTo i (.recovery .takeSda)
  | .takeSda => (s.pinDir .sda .input).goTo i (.recovery .takeScl)
  | .takeScl => (s.pinDir .scl .output).goTo i (.recovery .lowWrite)
  | .lowWrite => (s.pinWriteScl false).goTo i (.recovery .lowDelay)
  | .lowDelay => s.delay.goTo i (.recovery .highWrite)
  | .highWrite => (s.pinWriteScl true).goTo i (.recovery .highDelay)
  | .highDelay => ({ s.delay with pcnt := s.pcnt + 1 } : State).goTo i (.recovery .sample)
  | .sample => s.recSample i
  | .release => (s.setOwner .periph).goTo i (.recovery .restartWrite)
  | .restartWrite => (s.regWrite (.rsen true)).goTo i (.recovery .restartPoll)
  | .restartPoll => s.epiloguePoll i .rsen true .restartMore .stopWrite
  | .restartMore => s.epiloguePoll i .rsen false .restartMore .stopWrite
  | .stopWrite => (s.regWrite (.pen true)).goTo i (.recovery .stopPoll)
  | .stopPoll => s.epiloguePoll i .pen true .stopMore .exit
  | .stopMore => s.epiloguePoll i .pen false .stopMore .exit
  | .exit => (s.log .recEnd).leaveRecovery i

/-- `RECOVER` (R171): inside a command whose guarded wait timed out, the next step of the recovery
machine. From the host it is illegal (R75): F_BUSY while a command is in progress, else F_ILLEGAL_CMD. -/
def execRecover (s : State) : Host.Outcome State Fault Refusal :=
  if s.isStopped then .fault (.stopped s.fault)
  else
    match s.phase with
    | .busy op (.recovery r) => .next (recoverStep op r s)
    | .busy _ _ => .next (s.raise .busy)
    | .idle => .next (s.raise .illegalCmd)
    | .faulted => .fault (.stopped s.fault)

end Sys2Proof.Machine
end

