-- ==== Sys2Proof/Machine/Sequencer.lean ====
section
/-! DEFINITION. How a command's pseudocode runs: each line of it is an `Action`, the step (or, for a guarded
wait, one poll) that 00_scope.md R12 makes of the line, and `command` is one step of a command. -/

namespace Sys2Proof.Machine

/-- A line of pseudocode: the command, the line's number, whether it begins now (`false`: a later poll of
a guarded wait), and the state. -/
abbrev Action := Instr → Nat → Bool → State → State

/-- `RegWrite(P, v)`. -/
def writeLine (w : RegWr) : Action := fun i n _ s => (s.regWrite w).goTo i (.line (n + 1))

/-- `RegWrite(CFG_TIMING, CFG_TIMING)`: the parameter's value (R123). -/
def cfgTimingLine : Action := fun i n first s => writeLine (.cfgTiming s.params.cfgTiming) i n first s

/-- `RegWrite(CFG_MODE, CFG_MODE)`: the parameter's value (R123). -/
def cfgModeLine : Action := fun i n first s => writeLine (.cfgMode s.params.cfgMode) i n first s

/-- `RegWrite(TRN, b)`: a bus data transfer's byte (R58, R131). -/
def trnLine (b : Byte) : Action := fun i n first s => writeLine (.trn (busByte s.params b)) i n first s

/-- `GuardedWait(P, want)` (R122). -/
def waitLine (p : Flag) (want : Bit) : Action := fun i n first s =>
  match s.timedPoll p want first with
  | (.ok, s1) => s1.goTo i (.line (n + 1))
  | (.timeout, s1) => s1.enterRecovery i
  | (.again, s1) => s1.goTo i (.more n)

/-- `rxd <- RegRead(RCV)` (R132). -/
def readRcvLine : Action := fun i n _ s => s.readRcv.goTo i (.line (n + 1))

/-- `respond(SUCCESS, 0x00)`. -/
def respondLine : Action := fun _ _ _ s => s.respond statusSuccess 0x00#8

/-- `respond(SUCCESS, rxd)` (R132). -/
def respondRxdLine : Action := fun _ _ _ s => s.respond statusSuccess s.rxd

/-- `AckSeq(v)` (R130). -/
def ackSeq (v : Bit) : List Action :=
  [writeLine (.ackdt v), writeLine (.acken true), waitLine .acken false]

/-- The step of command `i` at a stage: `lines` are its pseudocode up to its last line, `last`. A line number
past `lines` is the last line (log 20). -/
def stageStep (i : Instr) (lines : List Action) (last : Action) (st : Stage) (s : State) : State :=
  match st with
  | .line n => lines.getD n last i n true s
  | .more n => lines.getD n last i n false s
  | .recovery r => recoverStep i r s
  | .busFault => s.respondBusFault

/-- One step of the block on behalf of command `i` (R12, R22): an idle block accepts it (R120); a block
that is busy with it makes the next step of its pseudocode; a block busy with another command finds an
overlapping offer (R120; log 15); a stopped block has no step (R204). -/
def command (i : Instr) (lines : List Action) (last : Action) (s : State) :
    Host.Outcome State Fault Refusal :=
  if s.isStopped then .fault (.stopped s.fault)
  else
    match s.phase with
    | .idle => .next (s.accept i)
    | .busy op st => if op = i then .next (stageStep i lines last st s) else .next (s.raise .busy)
    | .faulted => .fault (.stopped s.fault)

end Sys2Proof.Machine
end

