-- ==== Sys2Proof/Machine/Bcd.lean ====
section
/-! DEFINITION. The meanings of the BCD codec (41_bcd_codec.md R101, R102). Each is one line of pseudocode: raise
F_BCD_DOMAIN outside the domain, else respond. -/

namespace Sys2Proof.Machine

/-- The line of BCDENC (R101). -/
def bcdencLine (n : Byte) : Action := fun _ _ _ s =>
  if inBcdDomain (intOperand n) then s.respond statusSuccess (bcdByte (intOperand n))
  else s.raise .bcdDomain

/-- The line of BCDDEC (R102). -/
def bcddecLine (b : Byte) : Action := fun _ _ _ s =>
  if validBcd b then s.respond statusSuccess (BitVec.ofNat 8 (bcdValue b))
  else s.raise .bcdDomain

/-- `BCDENC #n` (R101). -/
def execBcdenc (n : Byte) (s : State) : Host.Outcome State Fault Refusal :=
  command (.bcdenc n) [] (bcdencLine n) s

/-- `BCDDEC #b` (R102). -/
def execBcddec (b : Byte) (s : State) : Host.Outcome State Fault Refusal :=
  command (.bcddec b) [] (bcddecLine b) s

end Sys2Proof.Machine
end

