-- ==== Sys2Proof/Machine/Bus.lean ====
section
/-! DEFINITION. The meanings of the bus primitives (42_bus_primitives.md R123 to R132): each is the pseudocode of
its rule, line by line, run one step at a time by `command`. -/

namespace Sys2Proof.Machine

/-- `INIT` (R123). -/
def execInit (s : State) : Host.Outcome State Fault Refusal :=
  command .init [cfgTimingLine, cfgModeLine, writeLine (.on true)] respondLine s

/-- `START` (R124). -/
def execStart (s : State) : Host.Outcome State Fault Refusal :=
  command .start [writeLine (.sen true), waitLine .sen false] respondLine s

/-- `STOP` (R125). -/
def execStop (s : State) : Host.Outcome State Fault Refusal :=
  command .stop [writeLine (.pen true), waitLine .pen false] respondLine s

/-- `RESTART` (R126). -/
def execRestart (s : State) : Host.Outcome State Fault Refusal :=
  command .restart [writeLine (.rsen true), waitLine .rsen false] respondLine s

/-- `WAITIDLE` (R127). -/
def execWaitidle (s : State) : Host.Outcome State Fault Refusal :=
  command .waitidle [waitLine .trstat false] respondLine s

/-- `ACK` (R128). -/
def execAck (s : State) : Host.Outcome State Fault Refusal :=
  command .ack (ackSeq false) respondLine s

/-- `NACK` (R129). -/
def execNack (s : State) : Host.Outcome State Fault Refusal :=
  command .nack (ackSeq true) respondLine s

/-- `WRITE #b` (R131): the four stages. -/
def execWrite (b : Byte) (s : State) : Host.Outcome State Fault Refusal :=
  command (.write b)
    [waitLine .trstat false, trnLine b, waitLine .tbf false, waitLine .trstat false]
    respondLine s

/-- `READ` (R132): the byte is captured before the acknowledge. -/
def execRead (last : Bit) (s : State) : Host.Outcome State Fault Refusal :=
  command (.read last)
    ([writeLine (.rcen true), waitLine .rbf true, readRcvLine] ++ ackSeq (ackValue last))
    respondRxdLine s

end Sys2Proof.Machine
end

