-- ==== Sys2Proof/Machine/Dispatch.lean ====
section
/-! DEFINITION. The dispatch: one arm per command. -/

namespace Sys2Proof.Machine

def exec (i : Instr) (s : State) : Host.Outcome State Fault Refusal :=
  match i with
  | .init => Sys2Proof.Machine.execInit s
  | .start => Sys2Proof.Machine.execStart s
  | .stop => Sys2Proof.Machine.execStop s
  | .restart => Sys2Proof.Machine.execRestart s
  | .waitidle => Sys2Proof.Machine.execWaitidle s
  | .ack => Sys2Proof.Machine.execAck s
  | .nack => Sys2Proof.Machine.execNack s
  | .write b => Sys2Proof.Machine.execWrite b s
  | .read last => Sys2Proof.Machine.execRead last s
  | .recover => Sys2Proof.Machine.execRecover s
  | .bcdenc n => Sys2Proof.Machine.execBcdenc n s
  | .bcddec b => Sys2Proof.Machine.execBcddec b s

end Sys2Proof.Machine
end

