-- ==== Sys2Proof/WellFormed.lean ====
section
/-! DEFINITION. Which commands are well formed. The operand types of `Instr` already hold every operand
to its field of the command word (R70), so the one check left is R75: the host may not issue RECOVER. -/

namespace Sys2Proof

/-- A command the host may issue (30_encoding.md R75): every command but RECOVER. -/
def Instr.wellFormed : Instr → Bool
  | .init => true
  | .start => true
  | .stop => true
  | .restart => true
  | .waitidle => true
  | .ack => true
  | .nack => true
  | .write _ => true
  | .read _ => true
  | .recover => false
  | .bcdenc _ => true
  | .bcddec _ => true

end Sys2Proof
end

