-- ==== Sys2Proof/Decode.lean ====
section
/-! DEFINITION. The command word: its fields, decoder and encoder (30_encoding.md R70 to R76). -/

namespace Sys2Proof

/-- `OP = w[15:12]` (R70). -/
def fieldOp (w : Word) : BitVec 4 := w.extractLsb' 12 4
/-- `RES = w[11:9]` (R70). -/
def fieldRes (w : Word) : BitVec 3 := w.extractLsb' 9 3
/-- `L = w[8]` (R70). -/
def fieldL (w : Word) : Bit := w.getLsbD 8
/-- `D = w[7:0]` (R70). -/
def fieldD (w : Word) : Byte := w.extractLsb' 0 8

/-- An operation with no operand: `L` and `D` must be 0 (R73). -/
def plainForm (l : Bit) (d : Byte) (i : Instr) : Option Instr :=
  if l = false ∧ d = 0#8 then some i else none

/-- An operation with the operand `D`: `L` must be 0 (R73). -/
def byteForm (l : Bit) (d : Byte) (f : Byte → Instr) : Option Instr :=
  if l = false then some (f d) else none

/-- The operation with the operand `L`: `D` must be 0 (R73). -/
def flagForm (l : Bit) (d : Byte) (f : Bit → Instr) : Option Instr :=
  if d = 0#8 then some (f l) else none

/-- The twelve operation codes of R72, and the reserved codes 0xC to 0xF. -/
def decodeOp (op : BitVec 4) (l : Bit) (d : Byte) : Option Instr :=
  match op.toNat with
  | 0x0 => plainForm l d .init
  | 0x1 => plainForm l d .start
  | 0x2 => plainForm l d .stop
  | 0x3 => plainForm l d .restart
  | 0x4 => plainForm l d .waitidle
  | 0x5 => plainForm l d .ack
  | 0x6 => plainForm l d .nack
  | 0x7 => byteForm l d .write
  | 0x8 => flagForm l d .read
  | 0x9 => plainForm l d .recover
  | 0xA => byteForm l d .bcdenc
  | 0xB => byteForm l d .bcddec
  | _ => none

/-- The command a word names, the internal code RECOVER among them (R72, R75); `none` if it names none. -/
def decodeTable (w : Word) : Option Instr :=
  if fieldRes w = 0#3 then decodeOp (fieldOp w) (fieldL w) (fieldD w) else none

/-- `decode` of R76, for a word the host offers: `none` is ILLEGAL, which RECOVER is too (R75). -/
def decode (w : Word) : Option Instr := (decodeTable w).filter Instr.wellFormed

/-- `{OP, 0b000, L, D}` (R77). -/
def wordOf (op : BitVec 4) (l : Bit) (d : Byte) : Word := op ++ 0#3 ++ BitVec.ofBool l ++ d

/-- The word of a command (R72, R77). -/
def encode : Instr → Word
  | .init => wordOf 0x0#4 false 0#8
  | .start => wordOf 0x1#4 false 0#8
  | .stop => wordOf 0x2#4 false 0#8
  | .restart => wordOf 0x3#4 false 0#8
  | .waitidle => wordOf 0x4#4 false 0#8
  | .ack => wordOf 0x5#4 false 0#8
  | .nack => wordOf 0x6#4 false 0#8
  | .write b => wordOf 0x7#4 false b
  | .read l => wordOf 0x8#4 l 0#8
  | .recover => wordOf 0x9#4 false 0#8
  | .bcdenc n => wordOf 0xA#4 false n
  | .bcddec b => wordOf 0xB#4 false b

/-- The mask of a command's row of spec/opcode_table.json. -/
def rowMask : Instr → Word
  | .init => 0xFFFF#16
  | .start => 0xFFFF#16
  | .stop => 0xFFFF#16
  | .restart => 0xFFFF#16
  | .waitidle => 0xFFFF#16
  | .ack => 0xFFFF#16
  | .nack => 0xFFFF#16
  | .write _ => 0xFF00#16
  | .read _ => 0xFEFF#16
  | .recover => 0xFFFF#16
  | .bcdenc _ => 0xFF00#16
  | .bcddec _ => 0xFF00#16

/-- The match of a command's row of spec/opcode_table.json. -/
def rowMatch : Instr → Word
  | .init => 0x0000#16
  | .start => 0x1000#16
  | .stop => 0x2000#16
  | .restart => 0x3000#16
  | .waitidle => 0x4000#16
  | .ack => 0x5000#16
  | .nack => 0x6000#16
  | .write _ => 0x7000#16
  | .read _ => 0x8000#16
  | .recover => 0x9000#16
  | .bcdenc _ => 0xA000#16
  | .bcddec _ => 0xB000#16

/-- The word of an instruction given as the table numbers its bits. A command word is handed over whole
(R59, R70), so no byte order enters. -/
def wordOfBits (nbits w : Nat) : Word := BitVec.ofNat 16 (w % 2 ^ nbits)

/-- The instruction the decoder reads from an instruction word given as the table numbers its bits. -/
def decodeTableWord (nbits w : Nat) : Option Instr := decodeTable (wordOfBits nbits w)

end Sys2Proof
end

