-- ==== Sys2Proof/Machine/HostPort.lean ====
section
/-! DEFINITION. The block's port to the host: offering a word (42_bus_primitives.md R120), letting a step pass,
resetting the device (70_reset_and_hazards.md R230), reading the response (R26, R233) and running an attempt
again until it succeeds (R97, R241); and which command, if any, the next step runs. -/

namespace Sys2Proof.Machine

/-- A device reset (R230): no state of the block survives; the parameters, the host's later moves and the
environment's answers are not the block's state (log 8). -/
def State.deviceReset (s : State) : State := State.afterReset s.params s.host s.env

/-- A word offered to an idle block: its decode, with RECOVER among the illegal words (R74, R76, R120). -/
def offered (w : Word) (s : State) : Turn :=
  match decode w with
  | none => .done (s.raise .illegalCmd)
  | some i => .run i s

/-- The command whose meaning the next step of a busy block is: RECOVER while recovery runs (R75, R170). -/
def running (op : Instr) (st : Stage) : Instr :=
  match st with
  | .recovery _ => .recover
  | .line _ => op
  | .more _ => op
  | .busFault => op

/-- The host's accumulator after it has read the response of the attempt's last word, if it has offered one
(R97). -/
def combineResponse (offeredWords : List Word) (acc : Status) (resp : Option Response) : Status :=
  match offeredWords, resp with
  | _ :: _, some r => combine acc r.status
  | _, _ => acc

/-- The turn of an idle block whose host runs an attempt (R97, R241; log 25): it takes the attempt's next
word. After the last, the host goes on to its later moves if the accumulated status is successful (R83), and
else runs the attempt again from its first word, with the accumulator at NOT_YET. -/
def attemptTurn (done left : List Word) (acc : Status) (rest : List HostMove) (s : State) : Turn :=
  match left, done with
  | w :: ws, _ =>
    offered w { s with host := .attempt (done ++ [w]) ws (combineResponse done acc s.resp) :: rest }
  | [], [] => .done s
  | [], w :: ws =>
    if successful (combineResponse done acc s.resp) then .done { s with host := rest }
    else offered w { s with host := .attempt [w] ws statusNotYet :: rest }

/-- The turn of an idle block: it takes the host's next move; with none it waits (R22; log 2). -/
def idleTurn (s : State) : Turn :=
  match s.host with
  | [] => .done s
  | .hold :: rest => .done { s with host := rest }
  | .reset :: rest => .done ({ s with host := rest } : State).deviceReset
  | .issue w :: rest => offered w { s with host := rest }
  | .offer w :: rest => offered w { s with host := rest }
  | .attempt done left acc :: rest => attemptTurn done left acc rest s

/-- The turn of a block busy with `op`: an overlapping offer raises F_BUSY, whatever the word (R120, R207);
else the command goes on. -/
def busyTurn (op : Instr) (st : Stage) (s : State) : Turn :=
  match s.host with
  | .offer _ :: rest => .done (({ s with host := rest } : State).raise .busy)
  | .hold :: rest => .run (running op st) { s with host := rest }
  | _ => .run (running op st) s

/-- The turn of a stopped block: only a device reset helps (R204). -/
def stoppedTurn (s : State) : Turn :=
  match s.host with
  | .reset :: rest => .done ({ s with host := rest } : State).deviceReset
  | _ => .stopped s.fault

/-- What the next step does. -/
def turn (s : State) : Turn :=
  if s.isStopped then stoppedTurn s
  else
    match s.phase with
    | .idle => idleTurn s
    | .busy op st => busyTurn op st s
    | .faulted => stoppedTurn s

/-- The host reads the response word, while the block is IDLE; before the first response there is none
(R26, R233; log 19). -/
def readResponse (s : State) : Option Word :=
  if s.phase = .idle then s.resp.map Response.word else none

/-- Place a command word as the host's next move to an idle block. -/
def placeWord (w : Word) (s : State) : State :=
  { s with host := .issue w :: s.host, phase := .idle, fault := none }

end Sys2Proof.Machine
end

