-- ==== Sys2Proof/Machine/Step.lean ====
section
/-! DEFINITION. One step of the machine (00_scope.md R12). -/

namespace Sys2Proof.Machine

/-- One step: what the host and the phase call for (`turn`), with a command's step run by `exec`. -/
def step (s : State) : Host.Outcome State Fault Refusal :=
  match turn s with
  | .run i t => exec i t
  | .done t => .next t
  | .stopped c => .fault (.stopped c)

/-- The state with the command word placed where the next step takes its word (log 13). -/
def State.withFetchWord (s : State) (nbits w : Nat) : State := placeWord (wordOfBits nbits w) s

end Sys2Proof.Machine
end

