-- ==== Sys2Proof/Machine/HostMacros.lean ====
section
/-! DEFINITION. Host constants and command sequences (20_memory.md R52, R54; 30_encoding.md R87, R89, R96, R97).
They are the client's: words the host may offer, once or until an attempt succeeds (log 17, log 25). -/

namespace Sys2Proof.Machine

/-- A time register of the slave (R52). -/
inductive SlaveReg where
  | seconds
  | minutes
  | hours
  | weekday
  | day
  | month
  | year
  deriving DecidableEq, Repr

/-- The byte offset of a slave register (R52). -/
def SlaveReg.offset : SlaveReg → Byte
  | .seconds => 0x00#8
  | .minutes => 0x01#8
  | .hours => 0x02#8
  | .weekday => 0x03#8
  | .day => 0x04#8
  | .month => 0x05#8
  | .year => 0x06#8

/-- The parameters of a host model (93_implementation_defined.md S13, U3; log 26): the constants of the
transaction layer that the spec leaves to it. -/
structure HostParams where
  /-- The position of the weekday byte's battery-backup bit (R89, C3); `none`: not adopted, as in the spec's own
  programs. -/
  weekdayBit : Option (Fin 8)
  /-- The reserved bits the host strips from a register's byte (R89); a register not listed has none. -/
  reserved : List (SlaveReg × Byte)
  deriving DecidableEq, Repr

/-- The host of the spec's own programs: no weekday bit and no reserved bits (D33, 95_test_vectors.md). -/
def HostParams.notAdopted : HostParams := ⟨none, []⟩

/-- The reserved bits of a register's byte (R89). -/
def HostParams.reservedBits (h : HostParams) (r : SlaveReg) : Byte := (h.reserved.lookup r).getD 0#8

/-- The battery-backup bit of the weekday byte; no bit where its position is not adopted (R89, C3). -/
def HostParams.weekdayMask (h : HostParams) : Byte :=
  match h.weekdayBit with
  | some k => 1#8 <<< k.val
  | none => 0#8

/-- `AW = {DEV_ADDR7, 0}`, the write-direction address byte (R54, R87). -/
def addrWrite (p : Params) : Byte := p.devAddr7 ++ 0#1

/-- `AR = {DEV_ADDR7, 1}`, the read-direction address byte (R54, R87). -/
def addrRead (p : Params) : Byte := p.devAddr7 ++ 1#1

/-- The seconds byte of sequence B: the oscillator bit 7 set (R89). -/
def injectSeconds (b : Byte) : Byte := b ||| 0x80#8

/-- The hours byte: the 12/24-hour bit 6 cleared (R89). -/
def injectHours (b : Byte) : Byte := b &&& 0xBF#8

/-- The month byte: the leap-year bit 5 set iff `year % 4 == 0` (R89). -/
def injectMonth (year : Nat) (b : Byte) : Byte :=
  if year % 4 = 0 then b ||| 0x20#8 else b &&& 0xDF#8

/-- The weekday byte: the battery-backup bit set, at the host's position for it (R89, S13; log 26). -/
def injectWeekday (h : HostParams) (b : Byte) : Byte := b ||| h.weekdayMask

/-- The control bit of a register's byte: oscillator enable, 12/24-hour select, battery-backup enable, leap-year
indicator, or none (R89). -/
def HostParams.controlMask (h : HostParams) (r : SlaveReg) : Byte :=
  match r with
  | .seconds => 0x80#8
  | .hours => 0x40#8
  | .weekday => h.weekdayMask
  | .month => 0x20#8
  | .minutes => 0#8
  | .day => 0#8
  | .year => 0#8

/-- What the host keeps of a byte it has read: the register's control bit and reserved bits are stripped (R89). -/
def stripControl (h : HostParams) (r : SlaveReg) (b : Byte) : Byte :=
  b &&& ~~~(h.controlMask r ||| h.reservedBits r)

/-- `GET_TIME_ATTEMPT`, 14 commands (R96). -/
def getTimeAttempt (p : Params) : List Instr :=
  [.start, .write (addrWrite p), .write SlaveReg.seconds.offset, .restart, .waitidle, .write (addrRead p)]
    ++ List.replicate 6 (.read false) ++ [.read true, .stop]

/-- `DISABLE_OSC_ATTEMPT`, 5 commands (R96). -/
def disableOscAttempt (p : Params) : List Instr :=
  [.start, .write (addrWrite p), .write SlaveReg.seconds.offset, .write 0x00#8, .stop]

/-- `SET_TIME_A_ATTEMPT`, 10 commands, for the six wire bytes (R96). -/
def setTimeAAttempt (p : Params) (minute hour weekday day month year : Byte) : List Instr :=
  [.start, .write (addrWrite p), .write SlaveReg.minutes.offset, .write minute, .write hour,
    .write weekday, .write day, .write month, .write year, .stop]

/-- `SET_TIME_B_ATTEMPT`, 5 commands, for the seconds' wire byte (R96). -/
def setTimeBAttempt (p : Params) (second : Byte) : List Instr :=
  [.start, .write (addrWrite p), .write SlaveReg.seconds.offset, .write second, .stop]

/-- The host runs the attempt until it succeeds, with no bound (R97, R241). -/
def untilSuccess (attempt : List Instr) : HostMove := .attempt [] (attempt.map encode) statusNotYet

/-- Set-time: three attempts, each run until it succeeds, independently (R97). -/
def setTimeMoves (p : Params) (minute hour weekday day month year second : Byte) : List HostMove :=
  [untilSuccess (disableOscAttempt p),
    untilSuccess (setTimeAAttempt p minute hour weekday day month year),
    untilSuccess (setTimeBAttempt p second)]

/-- The host runs an attempt again iff its accumulated status is not successful (R97). -/
def mustRetry (sts : List Status) : Bool := !successful (accumulate sts)

end Sys2Proof.Machine
end

