-- ==== Sys2Proof/Safety.lean ====
section
/-! DEFINITION. The terms in which claims about the block are made: what a host that keeps its duty leaves undone
(70_reset_and_hazards.md R240), the invariant of a run, the end of a run (R249), the bounds of R245, and the
block's state less the copies no rule reads (92_eei_decisions.md D14, D42). -/

namespace Sys2Proof.Machine

/-- The host leaves the command in progress undisturbed: its next move is neither an overlapping offer nor
a held step (R240). -/
def State.quiet (s : State) : Bool :=
  match s.host with
  | .offer _ :: _ => false
  | .hold :: _ => false
  | .issue _ :: _ => true
  | .reset :: _ => true
  | .attempt _ _ _ :: _ => true
  | [] => true

/-! ### Words, read as numbers -/

/-- `OP`, `RES`, `L` and `D` of a word by quotient and remainder (30_encoding.md R70). -/
def wordParts (w : Word) : Nat × Nat × Nat × Nat :=
  (w.toNat / 4096, w.toNat / 512 % 8, w.toNat / 256 % 2, w.toNat % 256)

/-- The illegal words of R73 and R74, told from their parts. -/
def illegalWord (w : Word) : Bool :=
  let (op, res, l, d) := wordParts w
  res ≠ 0 ∨ (l ≠ 0 ∧ op ≠ 8) ∨ (d ≠ 0 ∧ op ≠ 7 ∧ op ≠ 10 ∧ op ≠ 11) ∨ op = 9 ∨ 12 ≤ op

/-- The pseudocode of R76, line by line; `none` is ILLEGAL. -/
def decodeByRule (w : Word) : Option Instr :=
  let (op, res, l, d) := wordParts w
  if res ≠ 0 then none
  else if op ≤ 6 then
    if l ≠ 0 ∨ d ≠ 0 then none
    else [Instr.init, .start, .stop, .restart, .waitidle, .ack, .nack][op]?
  else if op = 7 then (if l ≠ 0 then none else some (.write (BitVec.ofNat 8 d)))
  else if op = 8 then (if d ≠ 0 then none else some (.read (l == 1)))
  else if op = 9 then none
  else if op = 10 then (if l ≠ 0 then none else some (.bcdenc (BitVec.ofNat 8 d)))
  else if op = 11 then (if l ≠ 0 then none else some (.bcddec (BitVec.ofNat 8 d)))
  else none

/-- The bus commands' operation codes are 1 to 8 (R72, R120). -/
def busWord (w : Word) : Bool := decide (1 ≤ w.toNat / 4096) && decide (w.toNat / 4096 ≤ 8)

/-! ### Stages -/

/-- The guarded waits of a command, by line: the flag polled and the value wanted (60_exceptions.md R201). -/
def waitOf : Instr → Nat → Option (Flag × Bit)
  | .start, 1 => some (.sen, false)
  | .stop, 1 => some (.pen, false)
  | .restart, 1 => some (.rsen, false)
  | .waitidle, 0 => some (.trstat, false)
  | .ack, 2 => some (.acken, false)
  | .nack, 2 => some (.acken, false)
  | .write _, 0 => some (.trstat, false)
  | .write _, 2 => some (.tbf, false)
  | .write _, 3 => some (.trstat, false)
  | .read _, 1 => some (.rbf, true)
  | .read _, 5 => some (.acken, false)
  | _, _ => none

/-- The number of a command's last line, its `respond`. -/
def lastLine : Instr → Nat
  | .init => 3
  | .start => 2
  | .stop => 2
  | .restart => 2
  | .waitidle => 1
  | .ack => 3
  | .nack => 3
  | .write _ => 4
  | .read _ => 6
  | .recover => 0
  | .bcdenc _ => 0
  | .bcddec _ => 0

/-- `stage` is a stage of `op` (R22): a line of its pseudocode, a later poll of one of its guarded waits, or,
for a command that can time out, recovery and the response after it. -/
def stageOf (op : Instr) (stage : Stage) : Bool :=
  match stage with
  | .line n => decide (n ≤ lastLine op)
  | .more n => (waitOf op n).isSome
  | .recovery _ => needsInit op
  | .busFault => needsInit op

/-! ### The invariant -/

/-- The phase is one a run can reach: BUSY only with a command the host may issue, at a stage of it (R22). -/
def State.phaseFits (s : State) : Bool :=
  match s.phase with
  | .busy op st => op.wellFormed && stageOf op st
  | .idle => true
  | .faulted => true

/-- A fault is recorded exactly when the block is FAULTED (R203, R204). -/
def State.faultFits (s : State) : Bool := s.fault.isSome == decide (s.phase = .faulted)

/-- Recovery's steps from the one after `PIN_OWNER <- MANUAL` to the one that makes it PERIPH again. -/
def RecStep.ownsPins : RecStep → Bool
  | .takeSda | .takeScl | .lowWrite | .lowDelay | .highWrite | .highDelay | .sample | .release => true
  | .enter | .disable | .reinitTiming | .reinitMode | .reinitOn | .takeOwner => false
  | .restartWrite | .restartPoll | .restartMore | .stopWrite | .stopPoll | .stopMore | .exit => false

/-- Recovery's steps before its first whole pulse or between two pulses. -/
def RecStep.beforePulse : RecStep → Bool
  | .disable | .reinitTiming | .reinitMode | .reinitOn | .takeOwner | .takeSda | .takeScl => true
  | .lowWrite | .lowDelay | .highWrite | .highDelay => true
  | .enter | .sample | .release => false
  | .restartWrite | .restartPoll | .restartMore | .stopWrite | .stopPoll | .stopMore | .exit => false

/-- Recovery's steps at which the peripheral is disabled (R173, R174). -/
def RecStep.peripheralOff : RecStep → Bool
  | .reinitTiming | .reinitMode | .reinitOn => true
  | .enter | .disable | .takeOwner | .takeSda | .takeScl => false
  | .lowWrite | .lowDelay | .highWrite | .highDelay | .sample | .release => false
  | .restartWrite | .restartPoll | .restartMore | .stopWrite | .stopPoll | .stopMore | .exit => false

/-- Recovery's steps at which the pins have their directions and the clock line is driven (R175). -/
def RecStep.pulsing : RecStep → Bool
  | .lowWrite | .lowDelay | .highWrite | .highDelay | .sample | .release => true
  | .enter | .disable | .reinitTiming | .reinitMode | .reinitOn => false
  | .takeOwner | .takeSda | .takeScl => false
  | .restartWrite | .restartPoll | .restartMore | .stopWrite | .stopPoll | .stopMore | .exit => false

/-- The owner of the lines fits the phase (R43, R137). -/
def State.ownerFits (s : State) : Bool :=
  match s.phase with
  | .busy _ (.recovery r) => s.pinOwner == (if r.ownsPins then .manual else .periph)
  | _ => s.pinOwner == .periph || s.phase == .faulted

/-- The poll counter is in 0..TIMEOUT (R23), and below TIMEOUT where another poll of the wait is due. -/
def State.cntFits (s : State) : Bool :=
  match s.phase with
  | .busy _ (.more _) => decide (s.cnt < s.params.timeout)
  | .busy _ (.recovery .restartMore) => decide (s.cnt < s.params.timeout)
  | .busy _ (.recovery .stopMore) => decide (s.cnt < s.params.timeout)
  | _ => decide (s.cnt ≤ s.params.timeout)

/-- The pulse counter is in 0..RECOVERY_CAP (R24), and below RECOVERY_CAP where another pulse is due. -/
def State.pcntFits (s : State) : Bool :=
  match s.phase with
  | .busy _ (.recovery r) =>
    if r.beforePulse then decide (s.pcnt < s.params.recoveryCap)
    else decide (s.pcnt ≤ s.params.recoveryCap)
  | _ => decide (s.pcnt ≤ s.params.recoveryCap)

/-- ON is 1 throughout a bus command, but for recovery's disabled steps, where it is 0 (R120, R173, R174). -/
def State.onFits (s : State) : Bool :=
  match s.phase with
  | .busy _ (.recovery r) => s.on == !r.peripheralOff
  | .busy op _ => !needsInit op || s.on
  | .idle => true
  | .faulted => true

/-- While recovery pulses, SDA is an input and SCL an output; SDA is made an input first (R175). -/
def State.dirsFit (s : State) : Bool :=
  match s.phase with
  | .busy _ (.recovery .takeScl) => s.sdaDir == .input
  | .busy _ (.recovery r) => !r.pulsing || (s.sdaDir == .input && s.sclDir == .output)
  | _ => true

/-- The configuration fields are of the parameters' widths (R31, R58). -/
def State.widthsFit (s : State) : Bool :=
  decide (s.cfgTiming.width = s.params.cfgTiming.width) && decide (s.cfgMode.width = s.params.cfgMode.width)

/-- The invariant of a run: legal parameters (R7), every field fitting the phase, and the widths. -/
def State.inv (s : State) : Bool :=
  s.params.legal && s.phaseFits && s.faultFits && s.ownerFits && s.cntFits && s.pcntFits && s.onFits &&
    s.dirsFit && s.widthsFit

/-! ### Lengths (R181, R245) -/

/-- The most events of one recovery: `12 + 5C + 2T` (R181). -/
def maxRecovery (p : Params) : Nat := 12 + 5 * p.recoveryCap + 2 * p.timeout

/-- The most events of a command that responds SUCCESS (R245). -/
def maxSuccess (p : Params) : Instr → Nat
  | .init => 3
  | .start => 1 + p.timeout
  | .stop => 1 + p.timeout
  | .restart => 1 + p.timeout
  | .waitidle => p.timeout
  | .ack => 2 + p.timeout
  | .nack => 2 + p.timeout
  | .write _ => 1 + 3 * p.timeout
  | .read _ => 4 + 2 * p.timeout
  | .recover => 0
  | .bcdenc _ => 0
  | .bcddec _ => 0

/-- The most events of a command that responds BUS_FAULT (R245). -/
def maxFaulting (p : Params) (i : Instr) : Nat := maxSuccess p i + maxRecovery p

/-- The operand is in its command's domain (41_bcd_codec.md R101, R102). -/
def inDomain : Instr → Bool
  | .bcdenc n => inBcdDomain (intOperand n)
  | .bcddec b => validBcd b
  | .init => true
  | .start => true
  | .stop => true
  | .restart => true
  | .waitidle => true
  | .ack => true
  | .nack => true
  | .write _ => true
  | .read _ => true
  | .recover => true

/-! ### Waits: their polls and their events -/

/-- What one poll of the guarded wait `p = want`, at line `n` of command `i`, leaves (42_bus_primitives.md R121,
R122): `k` polls of the wait were made before it. -/
def waitResult (i : Instr) (n : Nat) (p : Flag) (want : Bit) (k : Nat) (s : State) : State :=
  { (s.poll p).2 with
    cnt := k + 1
    phase :=
      if (s.poll p).1 = want then .busy i (.line (n + 1))
      else if k + 1 = s.params.timeout then .busy i (.recovery .enter)
      else .busy i (.more n) }

/-- What one poll of a wait of recovery's epilogue leaves (43_bus_recovery.md R177, R180). -/
def epilogueResult (i : Instr) (p : Flag) (k : Nat) (more next : RecStep) (s : State) : State :=
  { (s.poll p).2 with
    cnt := k + 1
    phase :=
      if (s.poll p).1 = false then .busy i (.recovery next)
      else if k + 1 = s.params.timeout then
        .busy i (.recovery (if s.params.nestedRecovery then .enter else next))
      else .busy i (.recovery more) }

/-- The events of the polls of `p` that read `bits`, in order. -/
def pollEvents (p : Flag) (bits : List Bit) : List Event := bits.map (.poll p)

/-- The events of one pulse whose sample reads `b` (43_bus_recovery.md R171). -/
def pulseEvents (b : Bit) : List Event := [.scl false, .delay, .scl true, .delay, .sda b]

/-- The events of one recovery (R171): the parameters' configuration, the samples and the epilogue's polls. -/
def recoveryEvents (p : Params) (samples restartPolls stopPolls : List Bit) : List Event :=
  [.recBegin, .wr (.on false), .wr (.cfgTiming p.cfgTiming), .wr (.cfgMode p.cfgMode), .wr (.on true),
    .own .manual, .dir .sda .input, .dir .scl .output]
  ++ samples.flatMap pulseEvents
  ++ [.own .periph, .wr (.rsen true)] ++ pollEvents .rsen restartPolls
  ++ [.wr (.pen true)] ++ pollEvents .pen stopPolls ++ [.recEnd]

/-- The bits a wait reads that wants `want` and is met at the poll after `k` others. -/
def waitBits (want : Bit) (k : Nat) : List Bit := List.replicate k (!want) ++ [want]

/-! ### The copies no rule reads -/

/-- The state with every field that no rule reads set to its reset value: the control-bit copies, ACKDT,
TRN, the configuration, the pins and the log (R28, R31, R38, D14, D42). -/
def State.forgetCopies (s : State) : State :=
  { s with
    ev := [], cfgTiming := ⟨0, 0#0⟩, cfgMode := ⟨0, 0#0⟩, sen := false, rsen := false, pen := false, rcen := false,
    acken := false, ackdt := false, trn := 0#8, pinOwner := .periph, sdaDir := .input, sclDir := .input,
    sclLat := false }

/-- An outcome with its state so cut down. -/
def forgetOutcome : Host.Outcome State Fault Refusal → Host.Outcome State Fault Refusal
  | .next s => .next s.forgetCopies
  | .fault c => .fault c
  | .refused r => .refused r

/-! ### The end of a run (R249) -/

/-- The host has a word still to offer. -/
def wordsLeft (moves : List HostMove) : Bool :=
  moves.any fun m =>
    match m with
    | .issue _ => true
    | .offer _ => true
    | .hold => false
    | .reset => false
    | .attempt _ _ _ => true

/-- A run has ended well: the last word is offered, the block is IDLE and no fault is recorded (R249). It looks
at the run's last state only. A device reset is a step of the model's runs, so a run that faulted and was then reset
can end well: DESIGN CHOICE, unsafe (log 27). For a run with no reset it is R249's. -/
def State.endedWell (s : State) : Bool :=
  !wordsLeft s.host && decide (s.phase = .idle) && s.fault.isNone

/-- The response words of a run of at most `n` steps (R249), those before a device reset among them (DESIGN
CHOICE; log 27). -/
def responses : Nat → State → List Word
  | 0, _ => []
  | n + 1, s =>
    match step s with
    | .next t =>
      (if s.phase ≠ .idle ∧ t.phase = .idle then (readResponse t).toList else []) ++ responses n t
    | .fault _ => []
    | .refused _ => []

end Sys2Proof.Machine
end

