-- ==== Sys2Proof/Certificates/Slice0/Obligations.lean ====
section
/-! DEFINITION. The statements for the provers. Each is a claim about the block, made from the rules of spec/
named in its docstring. -/

open Sys2Proof Sys2Proof.Machine

/-! ### Encoding (30_encoding.md) -/

/-- Words written out from R70 and R72 decode to the commands they stand for. A sanity statement. -/
def Obligations.WrittenWordsDecode : Prop :=
  decode 0b0000_000_0_00000000#16 = some .init ∧
  decode 0b0001_000_0_00000000#16 = some .start ∧
  decode 0b0100_000_0_00000000#16 = some .waitidle ∧
  decode 0b0110_000_0_00000000#16 = some .nack ∧
  decode 0b0111_000_0_11011110#16 = some (.write 0xDE#8) ∧
  decode 0b1000_000_1_00000000#16 = some (.read true) ∧
  decode 0b1001_000_0_00000000#16 = none ∧
  decode 0b1010_000_0_00101101#16 = some (.bcdenc 45#8) ∧
  decode 0b1011_000_0_01011001#16 = some (.bcddec 0x59#8)

/-- Decoding an encoded command gives it back, for every command and every operand; from the host, for
every command but RECOVER (R72, R75, R76, R77). -/
def Obligations.DecodeOfEncode : Prop :=
  ∀ i : Instr,
    decodeTable (encode i) = some i ∧ decode (encode i) = if i.wellFormed then some i else none

/-- Every word that names a command is that command's encoding: each word has one meaning (R72, R77). -/
def Obligations.EncodeOfDecode : Prop :=
  ∀ (w : Word) (i : Instr), decodeTable w = some i → encode i = w

/-- Decode is R76's pseudocode on all 65536 words, and exactly 777 words are legal (R76). -/
def Obligations.DecodeIsRuleR76 : Prop :=
  (∀ w : Word, decode w = decodeByRule w) ∧
  (List.range 65536).countP (fun n => (decode (BitVec.ofNat 16 n)).isSome) = 777

/-- A word matches a row of the opcode table, under the row's mask, exactly when it decodes to a command
of that row (spec/opcode_table.json). -/
def Obligations.TableRowsDecode : Prop :=
  ∀ (w : Word) (i : Instr),
    w &&& rowMask i = rowMatch i ↔ ∃ j, decodeTable w = some j ∧ rowMatch j = rowMatch i

/-! ### Status and response (30_encoding.md) -/

/-- The combine operation, judged success and their laws (R82, R83, R84). -/
def Obligations.StatusAlgebra : Prop :=
  (∀ a b : Status, combine a b = a ||| b) ∧
  (∀ acc : Status, successful acc = true ↔ acc = 0b001#3) ∧
  (∀ a b : Status, combine a b = combine b a) ∧
  (∀ a b c : Status, combine a (combine b c) = combine (combine a b) c) ∧
  (∀ a : Status, combine 0b000#3 a = a) ∧
  (∀ a : Status, combine a a = a) ∧
  (∀ l : List Status, l ≠ [] → (∀ x ∈ l, x = 0b001#3 ∨ x = 0b010#3) →
    (successful (accumulate l) = true ↔ ∀ x ∈ l, x = 0b001#3)) ∧
  accumulate [] = 0b000#3 ∧ successful (accumulate []) = false

/-- The response word's layout (R80). -/
def Obligations.ResponseWordLayout : Prop :=
  ∀ r : Response,
    r.word.extractLsb' 11 5 = 0#5 ∧ r.word.extractLsb' 8 3 = r.status ∧ r.word.extractLsb' 0 8 = r.data

/-! ### Reset (10_state.md R48, 70_reset_and_hazards.md R230) -/

/-- The reset values the spec gives; the unspecified ones are not stated. -/
def Obligations.ResetValues : Prop :=
  ∀ (p : Params) (h : List HostMove) (e : Env), ∀ s, s = State.afterReset p h e →
    s.phase = .idle ∧ s.cnt = 0 ∧ s.pcnt = 0 ∧ s.resp = none ∧ s.fault = none ∧ s.ev = [] ∧
    s.on = false ∧ s.sen = false ∧ s.rsen = false ∧ s.pen = false ∧ s.rcen = false ∧ s.acken = false ∧
    s.pinOwner = .periph

/-- A device reset, while no command is in progress, brings the reset state, from FAULTED too. That the
parameters, the host's moves and the environment's answers stay is the model's choice (log 8). -/
def Obligations.DeviceResetClears : Prop :=
  ∀ (s : State) (rest : List HostMove), s.host = .reset :: rest →
    (s.phase = .idle ∨ s.phase = .faulted ∨ s.fault ≠ none) →
    step s = .next (State.afterReset s.params rest s.env)

/-- The invariant holds at reset. -/
def Obligations.ResetMeetsInvariant : Prop := State.reset.inv = true

/-- Every step keeps the invariant: legal parameters, a phase that is a stage of its command, a fault
record exactly when FAULTED, the owner of the lines, both counters, ON and the pin directions fitting the
phase, and the configuration fields of the parameters' widths (R7, R22 to R24, R30, R31, R43, R44, R137, R203). -/
def Obligations.StepKeepsInvariant : Prop :=
  ∀ s t : State, s.inv = true → step s = .next t → t.inv = true

/-- In every state a run reaches from reset, whatever the legal parameters, the host and the environment
do, the peripheral owns the lines while the block is IDLE (R137). -/
def Obligations.IdlePeripheralOwnsLines : Prop :=
  ∀ (p : Params) (h : List HostMove) (e : Env) (n : Nat) (t : State), p.legal = true →
    Host.Core.run Sys2Proof.core n (State.afterReset p h e) = .next t → t.phase = .idle →
    t.pinOwner = .periph

/-- In every state a run reaches from reset, the counters are within their bounds (R23, R24). -/
def Obligations.CountersStayBounded : Prop :=
  ∀ (p : Params) (h : List HostMove) (e : Env) (n : Nat) (t : State), p.legal = true →
    Host.Core.run Sys2Proof.core n (State.afterReset p h e) = .next t →
    t.cnt ≤ p.timeout ∧ t.pcnt ≤ p.recoveryCap

/-! ### The step, acceptance and model faults (42_bus_primitives.md R120, 60_exceptions.md) -/

/-- A step runs the decoded command (R12, R22, R76, R120). IDLE: the word is taken from the host and decoded,
and the step is `exec` of the command it names. BUSY and undisturbed: the step is `exec` of the command in
progress, or of RECOVER while recovery runs; a held host move is consumed beside it. The model's choices here:
that the host's moves are a list, with a held move among them (log 3), and that recovery's steps are `exec` of
RECOVER (log 10). A host that runs an attempt: HostRunsAttempt. -/
def Obligations.StepRunsDecodedCommand : Prop :=
  (∀ (s : State) (w : Word) (rest : List HostMove) (i : Instr), s.phase = .idle → s.fault = none →
    (s.host = .issue w :: rest ∨ s.host = .offer w :: rest) → decode w = some i →
    step s = exec i { s with host := rest }) ∧
  (∀ (s : State) (op : Instr) (st : Stage), s.phase = .busy op st → s.fault = none → s.quiet = true →
    step s = exec (match st with | .recovery _ => .recover | _ => op) s) ∧
  (∀ (s : State) (op : Instr) (st : Stage) (rest : List HostMove), s.phase = .busy op st →
    s.fault = none → s.host = .hold :: rest →
    step s = exec (match st with | .recovery _ => .recover | _ => op) { s with host := rest })

/-- An idle block with no host move, or with a held one, waits and changes nothing of its own (the model's
choice, log 2). -/
def Obligations.IdleBlockWaits : Prop :=
  (∀ s : State, s.phase = .idle → s.fault = none → s.host = [] → step s = .next s) ∧
  (∀ (s : State) (rest : List HostMove), s.phase = .idle → s.fault = none → s.host = .hold :: rest →
    step s = .next { s with host := rest })

/-- An idle block accepts a legal command, a bus command only while ON is 1: the phase becomes BUSY at the
command's first line, and nothing else changes (R120). -/
def Obligations.LegalCommandAccepted : Prop :=
  ∀ (i : Instr) (s : State), i.wellFormed = true → s.phase = .idle → s.fault = none →
    (needsInit i = true → s.on = true) → exec i s = .next { s with phase := .busy i (.line 0) }

/-- A bus command while ON is 0 raises F_NOT_INIT; nothing else changes (R120, R203). -/
def Obligations.BusCommandBeforeInitFaults : Prop :=
  ∀ (i : Instr) (s : State),
    (i = .start ∨ i = .stop ∨ i = .restart ∨ i = .waitidle ∨ i = .ack ∨ i = .nack ∨
      (∃ b, i = .write b) ∨ ∃ l, i = .read l) →
    s.phase = .idle → s.fault = none → s.on = false →
    exec i s = .next { s with fault := some .notInit, phase := .faulted }

/-- An illegal word offered to an idle block raises F_ILLEGAL_CMD; nothing else changes, and the legal
words are the others (R73, R74, R75). -/
def Obligations.IllegalWordFaults : Prop :=
  (∀ w : Word, decode w = none ↔ illegalWord w = true) ∧
  (∀ (s : State) (w : Word) (rest : List HostMove), s.phase = .idle → s.fault = none →
    (s.host = .issue w :: rest ∨ s.host = .offer w :: rest) → illegalWord w = true →
    step s = .next { s with host := rest, fault := some .illegalCmd, phase := .faulted })

/-- A word offered while a command is in progress, recovery included, raises F_BUSY, whatever the word;
nothing else changes (R120, R206, R240). -/
def Obligations.OverlappingOfferFaults : Prop :=
  ∀ (s : State) (op : Instr) (st : Stage) (w : Word) (rest : List HostMove), s.phase = .busy op st →
    s.fault = none → s.host = .offer w :: rest →
    step s = .next { s with host := rest, fault := some .busy, phase := .faulted }

/-- The priority of the faults of an offered word (R207): no step when FAULTED, then F_BUSY, then
F_ILLEGAL_CMD, then F_NOT_INIT, and otherwise no fault at acceptance. -/
def Obligations.FaultPriority : Prop :=
  ∀ (s : State) (w : Word) (rest : List HostMove), s.host = .offer w :: rest →
    ((s.phase = .faulted ∨ s.fault ≠ none) → step s = .fault (.stopped s.fault)) ∧
    (s.phase ≠ .faulted → s.fault = none →
      ∃ t, step s = .next t ∧
        t.fault =
          if s.phase ≠ .idle then some .busy
          else if illegalWord w = true then some .illegalCmd
          else if busWord w = true ∧ s.on = false then some .notInit
          else none)

/-- Faults are sticky: with a fault recorded no step is enabled and no command runs, only a device reset
clears the record, and the run has not ended well (R204, R230). That a reset leaves the parameters, the host's
later moves and the environment's answers as they are is the model's choice (log 8). -/
def Obligations.FaultsAreSticky : Prop :=
  ∀ s : State, s.fault ≠ none →
    (∀ i, exec i s = .fault (.stopped s.fault)) ∧
    ((∀ rest, s.host ≠ .reset :: rest) → step s = .fault (.stopped s.fault)) ∧
    (∀ rest, s.host = .reset :: rest → step s = .next (State.afterReset s.params rest s.env)) ∧
    s.endedWell = false

/-! ### The host's retry (30_encoding.md R97, 70_reset_and_hazards.md R241) -/

/-- A host that runs an attempt, at an idle block: it reads the response to the last word it offered into its
accumulator and offers the next word; after the last word it goes on if the accumulated status is SUCCESS, and else
offers the first word again with the accumulator at NOT_YET (R83, R97, R241). How the host is held in State is the
model's choice (log 3, log 25). -/
def Obligations.HostRunsAttempt : Prop :=
  ∀ (s : State) (done left : List Word) (acc acc' : Status) (rest : List HostMove),
    s.phase = .idle → s.fault = none → s.host = .attempt done left acc :: rest →
    (done = [] → acc' = acc) → (∀ r, done ≠ [] → s.resp = some r → acc' = acc ||| r.status) →
    (done = [] ∨ s.resp ≠ none) →
    (∀ (w : Word) (ws : List Word) (u : State), left = w :: ws →
      u = { s with host := .attempt (done ++ [w]) ws acc' :: rest } →
      (∀ i, decode w = some i → step s = exec i u) ∧
      (decode w = none → step s = .next { u with fault := some .illegalCmd, phase := .faulted })) ∧
    (left = [] → done ≠ [] → acc' = 0b001#3 → step s = .next { s with host := rest }) ∧
    (∀ (w : Word) (ws : List Word) (u : State), left = [] → done = w :: ws → acc' ≠ 0b001#3 →
      u = { s with host := .attempt [w] ws 0b000#3 :: rest } →
      (∀ i, decode w = some i → step s = exec i u) ∧
      (decode w = none → step s = .next { u with fault := some .illegalCmd, phase := .faulted })) ∧
    (left = [] → done = [] → step s = .next s)

/-- With a bus stuck for ever (every flag and every sample reads 1) the run never stops and the host never leaves
its attempt: for an attempt of legal commands with at least one bus command, every number of steps leaves the block
without a fault and the host in the same attempt (R97, R241). It does not say that a command ends, and with
NESTED_RECOVERY one need not (R180). The stuck bus is one environment for the whole of the infinite run (log 4), and
the host is log 25's. -/
def Obligations.StuckBusNeverLeavesAttempt : Prop :=
  ∀ (s : State) (words : List Word) (rest : List HostMove),
    s.phase = .idle → s.fault = none → s.on = true → s.host = .attempt [] words 0b000#3 :: rest →
    (∀ w ∈ words, ∃ i, decode w = some i ∧ inDomain i = true) → (∃ w ∈ words, busWord w = true) →
    s.env.bits = [] → s.env.cycle = [true] →
    ∀ N : Nat, ∃ (t : State) (done left : List Word) (acc : Status),
      Host.Core.run Sys2Proof.core N s = .next t ∧ t.fault = none ∧
      t.host = .attempt done left acc :: rest ∧ done ++ left = words

/-- With a bus stuck for ever the host retries for ever, without nesting: however many steps have passed, a later
step of the same run finds the attempt's last word answered and offers its first word again, with the accumulator at
NOT_YET, and the block accepts it (R97, R241, R245). Every try thus ends, and there is no last one. The stuck bus is
log 4's and the host log 25's. -/
def Obligations.StuckBusRetriesForever : Prop :=
  ∀ (s : State) (w : Word) (ws : List Word) (rest : List HostMove),
    s.phase = .idle → s.fault = none → s.on = true →
    s.params.legal = true → s.params.nestedRecovery = false →
    s.host = .attempt [] (w :: ws) 0b000#3 :: rest →
    (∀ v ∈ w :: ws, ∃ i, decode v = some i ∧ inDomain i = true) → (∃ v ∈ w :: ws, busWord v = true) →
    s.env.bits = [] → s.env.cycle = [true] →
    ∀ N : Nat, ∃ (M : Nat) (t u : State) (acc : Status) (i : Instr),
      N ≤ M ∧ Host.Core.run Sys2Proof.core M s = .next t ∧
      t.phase = .idle ∧ t.host = .attempt (w :: ws) [] acc :: rest ∧
      decode w = some i ∧ step t = .next u ∧
      u.phase = .busy i (.line 0) ∧ u.host = .attempt [w] ws 0b000#3 :: rest

/-! ### The interface accesses (00_scope.md R10) -/

/-- What each field write does: the field, the log, and for ON <- 0 the control bits (R10, R30, R173). -/
def Obligations.FieldWrites : Prop :=
  (∀ (s : State) (v : ConfigValue),
    s.regWrite (.cfgTiming v) = { s with cfgTiming := v, ev := s.ev ++ [.wr (.cfgTiming v)] } ∧
    s.regWrite (.cfgMode v) = { s with cfgMode := v, ev := s.ev ++ [.wr (.cfgMode v)] }) ∧
  (∀ (s : State) (v : Bit),
    s.regWrite (.sen v) = { s with sen := v, ev := s.ev ++ [.wr (.sen v)] } ∧
    s.regWrite (.rsen v) = { s with rsen := v, ev := s.ev ++ [.wr (.rsen v)] } ∧
    s.regWrite (.pen v) = { s with pen := v, ev := s.ev ++ [.wr (.pen v)] } ∧
    s.regWrite (.rcen v) = { s with rcen := v, ev := s.ev ++ [.wr (.rcen v)] } ∧
    s.regWrite (.acken v) = { s with acken := v, ev := s.ev ++ [.wr (.acken v)] } ∧
    s.regWrite (.ackdt v) = { s with ackdt := v, ev := s.ev ++ [.wr (.ackdt v)] }) ∧
  (∀ (s : State) (v : Byte), s.regWrite (.trn v) = { s with trn := v, ev := s.ev ++ [.wr (.trn v)] }) ∧
  (∀ s : State, s.regWrite (.on true) = { s with on := true, ev := s.ev ++ [.wr (.on true)] }) ∧
  (∀ s : State,
    s.regWrite (.on false) =
      { s with
        on := false, sen := false, rsen := false, pen := false, rcen := false, acken := false
        ev := s.ev ++ [.wr (.on false)] })

/-- What a poll does: it takes the environment's next bit, logs it, and clears the copy of the control bit
whose completion it reports; nothing else (R10, R11, D42). That the environment's answers are a list, then those
that come for ever, then free values, is the model's choice (log 4). -/
def Obligations.PollUpdatesCopies : Prop :=
  (∀ (s : State) (p : Flag) (b : Bit) (rest : List Bit), s.env.bits = b :: rest →
    s.poll p =
      (b,
        { s with
          env := { s.env with bits := rest }
          ev := s.ev ++ [.poll p b]
          sen := if p = .sen ∧ b = false then false else s.sen
          rsen := if p = .rsen ∧ b = false then false else s.rsen
          pen := if p = .pen ∧ b = false then false else s.pen
          acken := if p = .acken ∧ b = false then false else s.acken
          rcen := if p = .rbf ∧ b = true then false else s.rcen })) ∧
  (∀ (s : State) (p : Flag), s.env.bits = [] → s.env.cycle ≠ [] →
    s.poll p = ({ s with env := { s.env with bits := s.env.cycle } } : State).poll p) ∧
  (∀ (s : State) (p : Flag), s.env.bits = [] → s.env.cycle = [] →
    (s.poll p).1 = Config.freeBit s.env.taken ∧
    (s.poll p).2.env = { s.env with taken := s.env.taken + 1 })

/-- A bus data transfer carries the low DATA_WIDTH bits of its byte: with the default, and with every width of 8
or more, the whole byte (R6, R58). What a narrower width does is the model's choice (log 24). -/
def Obligations.TransfersHaveDataWidth : Prop :=
  (∀ (p : Params) (v : Byte), (busByte p v).toNat = v.toNat % 2 ^ p.dataWidth) ∧
  (∀ (p : Params) (v : Byte), 8 ≤ p.dataWidth → busByte p v = v) ∧
  Params.default.dataWidth = 8

/-- The widths of the interface accesses, over every step: TRN is written only with WRITE's byte, of
DATA_WIDTH; RCV is read only as a byte of DATA_WIDTH, into `rxd`; the configuration fields are written only with
the parameters' values, of the parameters' widths (R6, R31, R58). Every other access is one bit by its type. R6 and
R58 give the width; that a byte is cut to its low bits where DATA_WIDTH is below 8 (`busByte`) is the model's choice
(log 24). -/
def Obligations.AccessWidths : Prop :=
  ∀ s t : State, s.phaseFits = true → step s = .next t →
    (∀ v, t.ev = s.ev ++ [.wr (.trn v)] →
      ∃ b, s.phase = .busy (.write b) (.line 1) ∧ v = busByte s.params b ∧ t.trn = v) ∧
    (∀ v, t.ev = s.ev ++ [.rd v] → busByte s.params v = v ∧ t.rxd = v) ∧
    (∀ v, t.ev = s.ev ++ [.wr (.cfgTiming v)] → v = s.params.cfgTiming ∧ t.cfgTiming = v) ∧
    (∀ v, t.ev = s.ev ++ [.wr (.cfgMode v)] → v = s.params.cfgMode ∧ t.cfgMode = v)

/-! ### What each command does, step by step, through its response
Each statement gives, for one command, the next state `exec` answers at each of its steps (R12): its lines
in the order of its rule's pseudocode, and its `respond`. -/

/-- INIT (R123). -/
def Obligations.InitSteps : Prop :=
  ∀ s : State, s.fault = none →
    (s.phase = .busy .init (.line 0) →
      exec .init s =
        .next { s with
          cfgTiming := s.params.cfgTiming, ev := s.ev ++ [.wr (.cfgTiming s.params.cfgTiming)]
          phase := .busy .init (.line 1) }) ∧
    (s.phase = .busy .init (.line 1) →
      exec .init s =
        .next { s with
          cfgMode := s.params.cfgMode, ev := s.ev ++ [.wr (.cfgMode s.params.cfgMode)]
          phase := .busy .init (.line 2) }) ∧
    (s.phase = .busy .init (.line 2) →
      exec .init s =
        .next { s with on := true, ev := s.ev ++ [.wr (.on true)], phase := .busy .init (.line 3) }) ∧
    (s.phase = .busy .init (.line 3) →
      exec .init s = .next { s with resp := some ⟨0b001#3, 0x00#8⟩, phase := .idle })

/-- START (R124). -/
def Obligations.StartSteps : Prop :=
  ∀ s : State, s.fault = none →
    (s.phase = .busy .start (.line 0) →
      exec .start s =
        .next { s with sen := true, ev := s.ev ++ [.wr (.sen true)], phase := .busy .start (.line 1) }) ∧
    (s.phase = .busy .start (.line 1) → exec .start s = .next (waitResult .start 1 .sen false 0 s)) ∧
    (s.phase = .busy .start (.more 1) → exec .start s = .next (waitResult .start 1 .sen false s.cnt s)) ∧
    (s.phase = .busy .start (.line 2) →
      exec .start s = .next { s with resp := some ⟨0b001#3, 0x00#8⟩, phase := .idle })

/-- STOP (R125). -/
def Obligations.StopSteps : Prop :=
  ∀ s : State, s.fault = none →
    (s.phase = .busy .stop (.line 0) →
      exec .stop s =
        .next { s with pen := true, ev := s.ev ++ [.wr (.pen true)], phase := .busy .stop (.line 1) }) ∧
    (s.phase = .busy .stop (.line 1) → exec .stop s = .next (waitResult .stop 1 .pen false 0 s)) ∧
    (s.phase = .busy .stop (.more 1) → exec .stop s = .next (waitResult .stop 1 .pen false s.cnt s)) ∧
    (s.phase = .busy .stop (.line 2) →
      exec .stop s = .next { s with resp := some ⟨0b001#3, 0x00#8⟩, phase := .idle })

/-- RESTART (R126). -/
def Obligations.RestartSteps : Prop :=
  ∀ s : State, s.fault = none →
    (s.phase = .busy .restart (.line 0) →
      exec .restart s =
        .next { s with
          rsen := true, ev := s.ev ++ [.wr (.rsen true)], phase := .busy .restart (.line 1) }) ∧
    (s.phase = .busy .restart (.line 1) →
      exec .restart s = .next (waitResult .restart 1 .rsen false 0 s)) ∧
    (s.phase = .busy .restart (.more 1) →
      exec .restart s = .next (waitResult .restart 1 .rsen false s.cnt s)) ∧
    (s.phase = .busy .restart (.line 2) →
      exec .restart s = .next { s with resp := some ⟨0b001#3, 0x00#8⟩, phase := .idle })

/-- WAITIDLE (R127). -/
def Obligations.WaitidleSteps : Prop :=
  ∀ s : State, s.fault = none →
    (s.phase = .busy .waitidle (.line 0) →
      exec .waitidle s = .next (waitResult .waitidle 0 .trstat false 0 s)) ∧
    (s.phase = .busy .waitidle (.more 0) →
      exec .waitidle s = .next (waitResult .waitidle 0 .trstat false s.cnt s)) ∧
    (s.phase = .busy .waitidle (.line 1) →
      exec .waitidle s = .next { s with resp := some ⟨0b001#3, 0x00#8⟩, phase := .idle })

/-- ACK: the acknowledge sequence with value 0 (R128, R130). -/
def Obligations.AckSteps : Prop :=
  ∀ s : State, s.fault = none →
    (s.phase = .busy .ack (.line 0) →
      exec .ack s =
        .next { s with
          ackdt := false, ev := s.ev ++ [.wr (.ackdt false)], phase := .busy .ack (.line 1) }) ∧
    (s.phase = .busy .ack (.line 1) →
      exec .ack s =
        .next { s with acken := true, ev := s.ev ++ [.wr (.acken true)], phase := .busy .ack (.line 2) }) ∧
    (s.phase = .busy .ack (.line 2) → exec .ack s = .next (waitResult .ack 2 .acken false 0 s)) ∧
    (s.phase = .busy .ack (.more 2) → exec .ack s = .next (waitResult .ack 2 .acken false s.cnt s)) ∧
    (s.phase = .busy .ack (.line 3) →
      exec .ack s = .next { s with resp := some ⟨0b001#3, 0x00#8⟩, phase := .idle })

/-- NACK: the acknowledge sequence with value 1 (R129, R130). -/
def Obligations.NackSteps : Prop :=
  ∀ s : State, s.fault = none →
    (s.phase = .busy .nack (.line 0) →
      exec .nack s =
        .next { s with
          ackdt := true, ev := s.ev ++ [.wr (.ackdt true)], phase := .busy .nack (.line 1) }) ∧
    (s.phase = .busy .nack (.line 1) →
      exec .nack s =
        .next { s with
          acken := true, ev := s.ev ++ [.wr (.acken true)], phase := .busy .nack (.line 2) }) ∧
    (s.phase = .busy .nack (.line 2) → exec .nack s = .next (waitResult .nack 2 .acken false 0 s)) ∧
    (s.phase = .busy .nack (.more 2) → exec .nack s = .next (waitResult .nack 2 .acken false s.cnt s)) ∧
    (s.phase = .busy .nack (.line 3) →
      exec .nack s = .next { s with resp := some ⟨0b001#3, 0x00#8⟩, phase := .idle })

/-- WRITE, for every byte and every DATA_WIDTH (R131; `busByte` is the byte itself at the default width, log 24). -/
def Obligations.WriteSteps : Prop :=
  ∀ (b : Byte) (s : State), s.fault = none →
    (s.phase = .busy (.write b) (.line 0) →
      exec (.write b) s = .next (waitResult (.write b) 0 .trstat false 0 s)) ∧
    (s.phase = .busy (.write b) (.more 0) →
      exec (.write b) s = .next (waitResult (.write b) 0 .trstat false s.cnt s)) ∧
    (s.phase = .busy (.write b) (.line 1) →
      exec (.write b) s =
        .next { s with
          trn := busByte s.params b, ev := s.ev ++ [.wr (.trn (busByte s.params b))]
          phase := .busy (.write b) (.line 2) }) ∧
    (s.phase = .busy (.write b) (.line 2) →
      exec (.write b) s = .next (waitResult (.write b) 2 .tbf false 0 s)) ∧
    (s.phase = .busy (.write b) (.more 2) →
      exec (.write b) s = .next (waitResult (.write b) 2 .tbf false s.cnt s)) ∧
    (s.phase = .busy (.write b) (.line 3) →
      exec (.write b) s = .next (waitResult (.write b) 3 .trstat false 0 s)) ∧
    (s.phase = .busy (.write b) (.more 3) →
      exec (.write b) s = .next (waitResult (.write b) 3 .trstat false s.cnt s)) ∧
    (s.phase = .busy (.write b) (.line 4) →
      exec (.write b) s = .next { s with resp := some ⟨0b001#3, 0x00#8⟩, phase := .idle })

/-- READ, for both values of `L`: READ MORE acknowledges with 0, READ LAST with 1 (R132). The byte read
is the environment's answer `v`, of DATA_WIDTH (`busByte`, log 24); with none listed, a free value (log 4). -/
def Obligations.ReadSteps : Prop :=
  ∀ (l : Bit) (s : State), s.fault = none →
    (s.phase = .busy (.read l) (.line 0) →
      exec (.read l) s =
        .next { s with
          rcen := true, ev := s.ev ++ [.wr (.rcen true)], phase := .busy (.read l) (.line 1) }) ∧
    (s.phase = .busy (.read l) (.line 1) →
      exec (.read l) s = .next (waitResult (.read l) 1 .rbf true 0 s)) ∧
    (s.phase = .busy (.read l) (.more 1) →
      exec (.read l) s = .next (waitResult (.read l) 1 .rbf true s.cnt s)) ∧
    (s.phase = .busy (.read l) (.line 2) → ∀ (v : Byte) (rest : List Byte), s.env.bytes = v :: rest →
      exec (.read l) s =
        .next { s with
          env := { s.env with bytes := rest }, rxd := busByte s.params v
          ev := s.ev ++ [.rd (busByte s.params v)]
          phase := .busy (.read l) (.line 3) }) ∧
    (s.phase = .busy (.read l) (.line 2) → s.env.bytes = [] →
      exec (.read l) s =
        .next { s with
          env := { s.env with taken := s.env.taken + 1 }
          rxd := busByte s.params (Config.freeByte s.env.taken)
          ev := s.ev ++ [.rd (busByte s.params (Config.freeByte s.env.taken))]
          phase := .busy (.read l) (.line 3) }) ∧
    (s.phase = .busy (.read l) (.line 3) →
      exec (.read l) s =
        .next { s with
          ackdt := l, ev := s.ev ++ [.wr (.ackdt l)], phase := .busy (.read l) (.line 4) }) ∧
    (s.phase = .busy (.read l) (.line 4) →
      exec (.read l) s =
        .next { s with
          acken := true, ev := s.ev ++ [.wr (.acken true)], phase := .busy (.read l) (.line 5) }) ∧
    (s.phase = .busy (.read l) (.line 5) →
      exec (.read l) s = .next (waitResult (.read l) 5 .acken false 0 s)) ∧
    (s.phase = .busy (.read l) (.more 5) →
      exec (.read l) s = .next (waitResult (.read l) 5 .acken false s.cnt s)) ∧
    (s.phase = .busy (.read l) (.line 6) →
      exec (.read l) s = .next { s with resp := some ⟨0b001#3, s.rxd⟩, phase := .idle })

/-- The guarded wait's response after recovery: status BUS_FAULT, the DATA a free value, the block IDLE;
nothing else of the block changes (R80, R122, R205). -/
def Obligations.BusFaultResponse : Prop :=
  ∀ (i : Instr) (s : State), i.wellFormed = true → s.fault = none → s.phase = .busy i .busFault →
    exec i s =
      .next { s with
        resp := some ⟨0b010#3, Config.freeByte s.env.taken⟩
        env := { s.env with taken := s.env.taken + 1 }
        phase := .idle }

/-- RECOVER, the recovery machine, state by state (R171, R173 to R177): for the command `op` whose guarded
wait timed out. A sample is a draw (R11): the next answer listed, then those that come for ever, then a free value,
which is the model's choice (log 4). That recovery's steps are `exec` of RECOVER is log 10's. -/
def Obligations.RecoverSteps : Prop :=
  ∀ (op : Instr) (s : State), s.fault = none →
    (s.phase = .busy op (.recovery .enter) →
      exec .recover s =
        .next { s with pcnt := 0, ev := s.ev ++ [.recBegin], phase := .busy op (.recovery .disable) }) ∧
    (s.phase = .busy op (.recovery .disable) →
      exec .recover s =
        .next { s with
          on := false, sen := false, rsen := false, pen := false, rcen := false, acken := false
          ev := s.ev ++ [.wr (.on false)], phase := .busy op (.recovery .reinitTiming) }) ∧
    (s.phase = .busy op (.recovery .reinitTiming) →
      exec .recover s =
        .next { s with
          cfgTiming := s.params.cfgTiming, ev := s.ev ++ [.wr (.cfgTiming s.params.cfgTiming)]
          phase := .busy op (.recovery .reinitMode) }) ∧
    (s.phase = .busy op (.recovery .reinitMode) →
      exec .recover s =
        .next { s with
          cfgMode := s.params.cfgMode, ev := s.ev ++ [.wr (.cfgMode s.params.cfgMode)]
          phase := .busy op (.recovery .reinitOn) }) ∧
    (s.phase = .busy op (.recovery .reinitOn) →
      exec .recover s =
        .next { s with
          on := true, ev := s.ev ++ [.wr (.on true)], phase := .busy op (.recovery .takeOwner) }) ∧
    (s.phase = .busy op (.recovery .takeOwner) →
      exec .recover s =
        .next { s with
          pinOwner := .manual, ev := s.ev ++ [.own .manual], phase := .busy op (.recovery .takeSda) }) ∧
    (s.phase = .busy op (.recovery .takeSda) →
      exec .recover s =
        .next { s with
          sdaDir := .input, ev := s.ev ++ [.dir .sda .input], phase := .busy op (.recovery .takeScl) }) ∧
    (s.phase = .busy op (.recovery .takeScl) →
      exec .recover s =
        .next { s with
          sclDir := .output, ev := s.ev ++ [.dir .scl .output]
          phase := .busy op (.recovery .lowWrite) }) ∧
    (s.phase = .busy op (.recovery .lowWrite) →
      exec .recover s =
        .next { s with
          sclLat := false, ev := s.ev ++ [.scl false], phase := .busy op (.recovery .lowDelay) }) ∧
    (s.phase = .busy op (.recovery .lowDelay) →
      exec .recover s =
        .next { s with ev := s.ev ++ [.delay], phase := .busy op (.recovery .highWrite) }) ∧
    (s.phase = .busy op (.recovery .highWrite) →
      exec .recover s =
        .next { s with
          sclLat := true, ev := s.ev ++ [.scl true], phase := .busy op (.recovery .highDelay) }) ∧
    (s.phase = .busy op (.recovery .highDelay) →
      exec .recover s =
        .next { s with
          pcnt := s.pcnt + 1, ev := s.ev ++ [.delay], phase := .busy op (.recovery .sample) }) ∧
    (s.phase = .busy op (.recovery .sample) → ∀ (b : Bit) (rest : List Bit), s.env.bits = b :: rest →
      exec .recover s =
        .next { s with
          env := { s.env with bits := rest }, ev := s.ev ++ [.sda b]
          phase :=
            if b = true ∨ s.pcnt = s.params.recoveryCap then .busy op (.recovery .release)
            else .busy op (.recovery .lowWrite) }) ∧
    (s.phase = .busy op (.recovery .sample) → s.env.bits = [] → s.env.cycle ≠ [] →
      exec .recover s = exec .recover { s with env := { s.env with bits := s.env.cycle } }) ∧
    (s.phase = .busy op (.recovery .sample) → s.env.bits = [] → s.env.cycle = [] →
      exec .recover s =
        .next { s with
          env := { s.env with taken := s.env.taken + 1 }, ev := s.ev ++ [.sda (Config.freeBit s.env.taken)]
          phase :=
            if Config.freeBit s.env.taken = true ∨ s.pcnt = s.params.recoveryCap then
              .busy op (.recovery .release)
            else .busy op (.recovery .lowWrite) }) ∧
    (s.phase = .busy op (.recovery .release) →
      exec .recover s =
        .next { s with
          pinOwner := .periph, ev := s.ev ++ [.own .periph]
          phase := .busy op (.recovery .restartWrite) }) ∧
    (s.phase = .busy op (.recovery .restartWrite) →
      exec .recover s =
        .next { s with
          rsen := true, ev := s.ev ++ [.wr (.rsen true)]
          phase := .busy op (.recovery .restartPoll) }) ∧
    (s.phase = .busy op (.recovery .restartPoll) →
      exec .recover s = .next (epilogueResult op .rsen 0 .restartMore .stopWrite s)) ∧
    (s.phase = .busy op (.recovery .restartMore) →
      exec .recover s = .next (epilogueResult op .rsen s.cnt .restartMore .stopWrite s)) ∧
    (s.phase = .busy op (.recovery .stopWrite) →
      exec .recover s =
        .next { s with
          pen := true, ev := s.ev ++ [.wr (.pen true)], phase := .busy op (.recovery .stopPoll) }) ∧
    (s.phase = .busy op (.recovery .stopPoll) →
      exec .recover s = .next (epilogueResult op .pen 0 .stopMore .exit s)) ∧
    (s.phase = .busy op (.recovery .stopMore) →
      exec .recover s = .next (epilogueResult op .pen s.cnt .stopMore .exit s)) ∧
    (s.phase = .busy op (.recovery .exit) →
      exec .recover s = .next { s with ev := s.ev ++ [.recEnd], phase := .busy op .busFault })

/-- BCDENC: in the domain 0..99 it responds with the BCD byte `(n / 10) * 16 + n % 10`; outside, F_BCD_DOMAIN
with nothing else changed (R101). -/
def Obligations.BcdencSteps : Prop :=
  ∀ (n : Byte) (s : State), s.fault = none → s.phase = .busy (.bcdenc n) (.line 0) →
    (n.toNat ≤ 99 →
      exec (.bcdenc n) s =
        .next { s with
          resp := some ⟨0b001#3, BitVec.ofNat 8 (n.toNat / 10 * 16 + n.toNat % 10)⟩, phase := .idle }) ∧
    (99 < n.toNat → exec (.bcdenc n) s = .next { s with fault := some .bcdDomain, phase := .faulted })

/-- BCDDEC: a valid BCD byte gives its integer; another byte, F_BCD_DOMAIN with nothing else changed
(R102). -/
def Obligations.BcddecSteps : Prop :=
  ∀ (b : Byte) (s : State), s.fault = none → s.phase = .busy (.bcddec b) (.line 0) →
    (b.toNat / 16 ≤ 9 ∧ b.toNat % 16 ≤ 9 →
      exec (.bcddec b) s =
        .next { s with
          resp := some ⟨0b001#3, BitVec.ofNat 8 (b.toNat / 16 * 10 + b.toNat % 16)⟩, phase := .idle }) ∧
    (9 < b.toNat / 16 ∨ 9 < b.toNat % 16 →
      exec (.bcddec b) s = .next { s with fault := some .bcdDomain, phase := .faulted })

/-- The codec's operations are inverse bijections between 0..99 and the valid BCD bytes, as responses of
the two commands (R103). -/
def Obligations.CodecRoundTrip : Prop :=
  (∀ (n : Byte) (s : State), n.toNat ≤ 99 → s.fault = none → s.phase = .busy (.bcdenc n) (.line 0) →
    ∃ (b : Byte) (t : State), exec (.bcdenc n) s = .next t ∧ t.resp = some ⟨0b001#3, b⟩ ∧
      ∀ u : State, u.fault = none → u.phase = .busy (.bcddec b) (.line 0) →
        exec (.bcddec b) u = .next { u with resp := some ⟨0b001#3, n⟩, phase := .idle }) ∧
  (∀ (b : Byte) (s : State), b.toNat / 16 ≤ 9 → b.toNat % 16 ≤ 9 → s.fault = none →
    s.phase = .busy (.bcddec b) (.line 0) →
    ∃ (n : Byte) (t : State), exec (.bcddec b) s = .next t ∧ t.resp = some ⟨0b001#3, n⟩ ∧
      ∀ u : State, u.fault = none → u.phase = .busy (.bcdenc n) (.line 0) →
        exec (.bcdenc n) u = .next { u with resp := some ⟨0b001#3, b⟩, phase := .idle })

/-! ### Whole commands, from the host's word to the response -/

/-- INIT, whole: five steps, three events, SUCCESS (R12, R123). -/
def Obligations.InitRun : Prop :=
  ∀ (s : State) (rest : List HostMove), s.phase = .idle → s.fault = none →
    s.host = .issue 0x0000#16 :: rest → ({ s with host := rest } : State).quiet = true →
    Host.Core.run Sys2Proof.core 5 s =
      .next { s with
        host := rest
        cfgTiming := s.params.cfgTiming, cfgMode := s.params.cfgMode, on := true
        ev := s.ev ++ [.wr (.cfgTiming s.params.cfgTiming), .wr (.cfgMode s.params.cfgMode), .wr (.on true)]
        resp := some ⟨0b001#3, 0x00#8⟩ }

/-- START, STOP, RESTART and WAITIDLE, whole, when the flag reads 0 at the poll after `k < TIMEOUT` that
read 1: SUCCESS, with the control bit's copy back at 0 (R12, R121, R124 to R127). -/
def Obligations.ConditionRuns : Prop :=
  ∀ (s : State) (rest : List HostMove) (k : Nat) (bits : List Bit),
    s.phase = .idle → s.fault = none → s.on = true → k < s.params.timeout →
    ({ s with host := rest } : State).quiet = true → s.env.bits = waitBits false k ++ bits →
    (s.host = .issue 0x1000#16 :: rest →
      Host.Core.run Sys2Proof.core (k + 4) s =
        .next { s with
          host := rest, env := { s.env with bits := bits }, cnt := k + 1, sen := false
          ev := s.ev ++ [.wr (.sen true)] ++ pollEvents .sen (waitBits false k)
          resp := some ⟨0b001#3, 0x00#8⟩ }) ∧
    (s.host = .issue 0x2000#16 :: rest →
      Host.Core.run Sys2Proof.core (k + 4) s =
        .next { s with
          host := rest, env := { s.env with bits := bits }, cnt := k + 1, pen := false
          ev := s.ev ++ [.wr (.pen true)] ++ pollEvents .pen (waitBits false k)
          resp := some ⟨0b001#3, 0x00#8⟩ }) ∧
    (s.host = .issue 0x3000#16 :: rest →
      Host.Core.run Sys2Proof.core (k + 4) s =
        .next { s with
          host := rest, env := { s.env with bits := bits }, cnt := k + 1, rsen := false
          ev := s.ev ++ [.wr (.rsen true)] ++ pollEvents .rsen (waitBits false k)
          resp := some ⟨0b001#3, 0x00#8⟩ }) ∧
    (s.host = .issue 0x4000#16 :: rest →
      Host.Core.run Sys2Proof.core (k + 3) s =
        .next { s with
          host := rest, env := { s.env with bits := bits }, cnt := k + 1
          ev := s.ev ++ pollEvents .trstat (waitBits false k)
          resp := some ⟨0b001#3, 0x00#8⟩ })

/-- ACK and NACK, whole, when ACKEN reads 0 at the poll after `k < TIMEOUT` that read 1 (R128 to R130). -/
def Obligations.AcknowledgeRuns : Prop :=
  ∀ (s : State) (rest : List HostMove) (k : Nat) (bits : List Bit) (nack : Bit),
    s.phase = .idle → s.fault = none → s.on = true → k < s.params.timeout →
    s.host = .issue (if nack then 0x6000#16 else 0x5000#16) :: rest →
    ({ s with host := rest } : State).quiet = true → s.env.bits = waitBits false k ++ bits →
    Host.Core.run Sys2Proof.core (k + 5) s =
      .next { s with
        host := rest, env := { s.env with bits := bits }, cnt := k + 1, ackdt := nack, acken := false
        ev := s.ev ++ [.wr (.ackdt nack), .wr (.acken true)] ++ pollEvents .acken (waitBits false k)
        resp := some ⟨0b001#3, 0x00#8⟩ }

/-- WRITE, whole, when each of its three waits ends within its own budget (R131; `busByte`: log 24). -/
def Obligations.WriteRun : Prop :=
  ∀ (s : State) (rest : List HostMove) (b : Byte) (j k m : Nat) (bits : List Bit),
    s.phase = .idle → s.fault = none → s.on = true →
    j < s.params.timeout → k < s.params.timeout → m < s.params.timeout →
    s.host = .issue (0x7000#16 ||| b.setWidth 16) :: rest →
    ({ s with host := rest } : State).quiet = true →
    s.env.bits = waitBits false j ++ waitBits false k ++ waitBits false m ++ bits →
    Host.Core.run Sys2Proof.core (j + k + m + 6) s =
      .next { s with
        host := rest, env := { s.env with bits := bits }, cnt := m + 1
        trn := busByte s.params b
        ev := s.ev ++ pollEvents .trstat (waitBits false j) ++ [.wr (.trn (busByte s.params b))] ++
          pollEvents .tbf (waitBits false k) ++ pollEvents .trstat (waitBits false m)
        resp := some ⟨0b001#3, 0x00#8⟩ }

/-- READ, whole, when both its waits end within their budgets: the byte the environment answers is the
response's DATA, and the acknowledge sent is the operand's (R132; `busByte`: log 24). -/
def Obligations.ReadRun : Prop :=
  ∀ (s : State) (rest : List HostMove) (l : Bit) (v : Byte) (bytes : List Byte) (j k : Nat)
    (bits : List Bit),
    s.phase = .idle → s.fault = none → s.on = true →
    j < s.params.timeout → k < s.params.timeout →
    s.host = .issue (if l then 0x8100#16 else 0x8000#16) :: rest →
    ({ s with host := rest } : State).quiet = true →
    s.env.bits = waitBits true j ++ waitBits false k ++ bits → s.env.bytes = v :: bytes →
    Host.Core.run Sys2Proof.core (j + k + 8) s =
      .next { s with
        host := rest, env := { s.env with bits := bits, bytes := bytes }, cnt := k + 1
        rxd := busByte s.params v, rcen := false, ackdt := l, acken := false
        ev := s.ev ++ [.wr (.rcen true)] ++ pollEvents .rbf (waitBits true j) ++
          [.rd (busByte s.params v), .wr (.ackdt l), .wr (.acken true)] ++ pollEvents .acken (waitBits false k)
        resp := some ⟨0b001#3, busByte s.params v⟩ }

/-- Every guarded wait of every command: it stops at the first poll that reads the wanted value, and gives up
after exactly TIMEOUT polls that all read the other, going to recovery with nothing else done (R121, R122,
R201, R202). -/
def Obligations.GuardedWaitPolls : Prop :=
  ∀ (op : Instr) (n : Nat) (p : Flag) (want : Bit) (s : State) (bits : List Bit),
    waitOf op n = some (p, want) → s.phase = .busy op (.line n) → s.fault = none → s.quiet = true →
    s.params.legal = true →
    (∀ k, k < s.params.timeout → s.env.bits = waitBits want k ++ bits →
      ∃ t, Host.Core.run Sys2Proof.core (k + 1) s = .next t ∧ t.phase = .busy op (.line (n + 1)) ∧
        t.cnt = k + 1 ∧ t.ev = s.ev ++ pollEvents p (waitBits want k) ∧ t.env = { s.env with bits := bits }) ∧
    (s.env.bits = List.replicate s.params.timeout (!want) ++ bits →
      ∃ t, Host.Core.run Sys2Proof.core s.params.timeout s = .next t ∧
        t.phase = .busy op (.recovery .enter) ∧ t.cnt = s.params.timeout ∧
        t.ev = s.ev ++ pollEvents p (List.replicate s.params.timeout (!want)) ∧
        t.env = { s.env with bits := bits } ∧ t.on = s.on ∧ t.resp = s.resp ∧ t.rxd = s.rxd ∧
        t.trn = s.trn)

/-- One recovery, whole, whatever the environment answers (without nesting): `k` pulses with
`1 ≤ k ≤ RECOVERY_CAP`, ended by the first sample that reads 1 or by the cap; the epilogue's two waits of
at most TIMEOUT polls, each ended by a poll that reads 0 or by its budget; `12 + 5k + m1 + m2` events and
as many steps; and the state it leaves (R171 to R178, R181). -/
def Obligations.RecoveryRun : Prop :=
  ∀ (op : Instr) (s : State), s.phase = .busy op (.recovery .enter) → s.fault = none →
    s.quiet = true → s.params.legal = true → s.params.nestedRecovery = false →
    ∃ (k m1 m2 : Nat) (last e1 e2 : Bit) (samples r1 r2 : List Bit) (t : State),
      samples = List.replicate (k - 1) false ++ [last] ∧ 1 ≤ k ∧ k ≤ s.params.recoveryCap ∧
      (last = true ∨ k = s.params.recoveryCap) ∧
      r1 = List.replicate (m1 - 1) true ++ [e1] ∧ 1 ≤ m1 ∧ m1 ≤ s.params.timeout ∧
      (e1 = false ∨ m1 = s.params.timeout) ∧
      r2 = List.replicate (m2 - 1) true ++ [e2] ∧ 1 ≤ m2 ∧ m2 ≤ s.params.timeout ∧
      (e2 = false ∨ m2 = s.params.timeout) ∧
      Host.Core.run Sys2Proof.core (12 + 5 * k + m1 + m2) s = .next t ∧
      t.ev = s.ev ++ recoveryEvents s.params samples r1 r2 ∧
      t.phase = .busy op .busFault ∧ t.fault = none ∧ t.resp = s.resp ∧ t.rxd = s.rxd ∧ t.trn = s.trn ∧
      t.ackdt = s.ackdt ∧ t.on = true ∧ t.cfgTiming = s.params.cfgTiming ∧ t.cfgMode = s.params.cfgMode ∧
      t.sen = false ∧ t.rcen = false ∧ t.acken = false ∧ t.rsen = e1 ∧ t.pen = e2 ∧
      t.pinOwner = .periph ∧ t.sdaDir = .input ∧ t.sclDir = .output ∧ t.sclLat = true ∧
      t.pcnt = k ∧ t.cnt = m2

/-- With NESTED_RECOVERY, an epilogue wait that times out enters recovery again (R180). -/
def Obligations.NestedTimeoutReenters : Prop :=
  ∀ (op : Instr) (s : State) (rest : List Bit), s.fault = none → s.params.nestedRecovery = true →
    s.env.bits = true :: rest → s.cnt + 1 = s.params.timeout →
    (s.phase = .busy op (.recovery .restartMore) ∨ s.phase = .busy op (.recovery .stopMore)) →
    ∃ t, exec .recover s = .next t ∧ t.phase = .busy op (.recovery .enter) ∧ t.cnt = s.params.timeout ∧
      t.env.bits = rest

/-- With NESTED_RECOVERY, a command has no bound: for every `N` there are answers under which it is still
in recovery after `N` steps (R180). -/
def Obligations.NestedRecoveryUnbounded : Prop :=
  ∀ (op : Instr) (s : State) (N : Nat), s.phase = .busy op (.recovery .enter) → s.fault = none →
    s.quiet = true → s.params.legal = true → s.params.nestedRecovery = true →
    ∃ (bits : List Bit) (t : State) (r : RecStep),
      Host.Core.run Sys2Proof.core N { s with env := { s.env with bits := bits } } = .next t ∧
      t.phase = .busy op (.recovery r)

/-- Every command of a host that keeps its duties ends with a response, whatever the environment answers
(without nesting): in `2 + n` steps, `n` the events it logs, within the bound of its status; SUCCESS ran no
recovery and BUS_FAULT ran exactly one; INIT and the codec respond only SUCCESS; the block is then IDLE,
the peripheral owns the lines and ON is 1 after a bus command (R12, R13, R85, R135, R137, R245). -/
def Obligations.CommandCompletes : Prop :=
  ∀ (i : Instr) (s : State) (rest : List HostMove),
    i.wellFormed = true → inDomain i = true → s.phase = .idle → s.fault = none →
    s.params.legal = true → s.params.nestedRecovery = false → (needsInit i = true → s.on = true) →
    s.pinOwner = .periph → s.host = .issue (encode i) :: rest →
    ({ s with host := rest } : State).quiet = true →
    ∃ (n : Nat) (t : State) (evs : List Event) (r : Response),
      Host.Core.run Sys2Proof.core (n + 2) s = .next t ∧ t.phase = .idle ∧ t.fault = none ∧
      t.resp = some r ∧ t.ev = s.ev ++ evs ∧ evs.length = n ∧ t.host = rest ∧
      t.pinOwner = .periph ∧ (needsInit i = true → t.on = true) ∧
      ((r.status = 0b001#3 ∧ n ≤ maxSuccess s.params i ∧
          evs.count .recBegin = 0 ∧ evs.count .recEnd = 0) ∨
        (r.status = 0b010#3 ∧ needsInit i = true ∧ n ≤ maxFaulting s.params i ∧
          evs.count .recBegin = 1 ∧ evs.count .recEnd = 1))

/-! ### Rules over all commands -/

/-- No step of recovery raises a fault or fails: it answers a next state, still inside the same command
(R171, R178, R206). -/
def Obligations.RecoveryNeverFails : Prop :=
  ∀ (op : Instr) (r : RecStep) (s : State), s.phase = .busy op (.recovery r) → s.fault = none →
    (∀ w rest, s.host ≠ .offer w :: rest) →
    ∃ (t : State) (st : Stage), step s = .next t ∧ t.fault = none ∧ t.phase = .busy op st ∧
      t.resp = s.resp ∧ (st = .busFault ∨ ∃ r', st = .recovery r')

/-- Which step writes which field: a frame over every command and every stage of it. No command changes
the parameters or the host's moves; `rxd` changes only at READ's read of RCV, TRN only at WRITE's load,
ACKDT only at ACK's, NACK's and READ's first acknowledge line, ON only at INIT's third line and at recovery's
disable and re-enable, the owner and the directions of the pins and the clock latch only in recovery, `pcnt`
only at recovery's entry and after a pulse, the configuration only in INIT and in recovery's re-initialise,
a control bit's copy only by its own command's write, by the poll that reports its completion and by ON <- 0,
`cnt` only with a poll, the environment's answers only with a poll, a read, a sample or a BUS_FAULT
response, `fault` only by raising, and `resp` only by responding (R10, R22 to R27, R30 to R38, R43 to R45, R121 to
R132, R171 to R177). That TRN takes the byte cut to a DATA_WIDTH below 8 (`busByte`) is the model's choice (log 24), as
are the environment's answers as a field of State (log 4). -/
def Obligations.WhoWritesWhat : Prop :=
  ∀ (i : Instr) (s t : State), s.phaseFits = true → exec i s = .next t →
    t.params = s.params ∧ t.host = s.host ∧
    (t.rxd ≠ s.rxd → ∃ l, s.phase = .busy (.read l) (.line 2)) ∧
    (t.trn ≠ s.trn → ∃ b, s.phase = .busy (.write b) (.line 1) ∧ t.trn = busByte s.params b) ∧
    (t.ackdt ≠ s.ackdt →
      s.phase = .busy .ack (.line 0) ∨ s.phase = .busy .nack (.line 0) ∨
        ∃ l, s.phase = .busy (.read l) (.line 3)) ∧
    (t.on ≠ s.on →
      s.phase = .busy .init (.line 2) ∨
        ∃ op, s.phase = .busy op (.recovery .disable) ∨ s.phase = .busy op (.recovery .reinitOn)) ∧
    (t.cfgTiming ≠ s.cfgTiming →
      s.phase = .busy .init (.line 0) ∨ ∃ op, s.phase = .busy op (.recovery .reinitTiming)) ∧
    (t.cfgMode ≠ s.cfgMode →
      s.phase = .busy .init (.line 1) ∨ ∃ op, s.phase = .busy op (.recovery .reinitMode)) ∧
    (t.pinOwner ≠ s.pinOwner →
      ∃ op, s.phase = .busy op (.recovery .takeOwner) ∨ s.phase = .busy op (.recovery .release)) ∧
    (t.sdaDir ≠ s.sdaDir → ∃ op, s.phase = .busy op (.recovery .takeSda)) ∧
    (t.sclDir ≠ s.sclDir → ∃ op, s.phase = .busy op (.recovery .takeScl)) ∧
    (t.sclLat ≠ s.sclLat →
      ∃ op, s.phase = .busy op (.recovery .lowWrite) ∨ s.phase = .busy op (.recovery .highWrite)) ∧
    (t.pcnt ≠ s.pcnt →
      ∃ op, s.phase = .busy op (.recovery .enter) ∨ s.phase = .busy op (.recovery .highDelay)) ∧
    (t.sen ≠ s.sen →
      s.phase = .busy .start (.line 0) ∨ t.ev = s.ev ++ [.poll .sen false] ∨
        ∃ op, s.phase = .busy op (.recovery .disable)) ∧
    (t.rsen ≠ s.rsen →
      s.phase = .busy .restart (.line 0) ∨ t.ev = s.ev ++ [.poll .rsen false] ∨
        ∃ op, s.phase = .busy op (.recovery .disable) ∨ s.phase = .busy op (.recovery .restartWrite)) ∧
    (t.pen ≠ s.pen →
      s.phase = .busy .stop (.line 0) ∨ t.ev = s.ev ++ [.poll .pen false] ∨
        ∃ op, s.phase = .busy op (.recovery .disable) ∨ s.phase = .busy op (.recovery .stopWrite)) ∧
    (t.rcen ≠ s.rcen →
      (∃ l, s.phase = .busy (.read l) (.line 0)) ∨ t.ev = s.ev ++ [.poll .rbf true] ∨
        ∃ op, s.phase = .busy op (.recovery .disable)) ∧
    (t.acken ≠ s.acken →
      s.phase = .busy .ack (.line 1) ∨ s.phase = .busy .nack (.line 1) ∨
        (∃ l, s.phase = .busy (.read l) (.line 4)) ∨ t.ev = s.ev ++ [.poll .acken false] ∨
        ∃ op, s.phase = .busy op (.recovery .disable)) ∧
    (t.cnt ≠ s.cnt → ∃ p b, t.ev = s.ev ++ [.poll p b]) ∧
    (t.env ≠ s.env →
      (∃ p b, t.ev = s.ev ++ [.poll p b]) ∨ (∃ v, t.ev = s.ev ++ [.rd v]) ∨
        (∃ b, t.ev = s.ev ++ [.sda b]) ∨ ∃ op, s.phase = .busy op .busFault) ∧
    (t.fault ≠ s.fault → t.phase = .faulted) ∧
    (t.resp ≠ s.resp → t.phase = .idle)

/-- The log only grows, by at most one event a step; a device reset apart (R12, R28, R60). -/
def Obligations.LogGrowsByOneEvent : Prop :=
  ∀ s t : State, (∀ rest, s.host ≠ .reset :: rest) → step s = .next t →
    t.ev = s.ev ∨ ∃ e, t.ev = s.ev ++ [e]

/-- Only a response ends a command well, and a command responds SUCCESS or BUS_FAULT and nothing else, INIT
and the codec SUCCESS only; a model fault produces no response (R22, R85, R86, R203). -/
def Obligations.StatusesProduced : Prop :=
  ∀ (s t : State) (op : Instr) (st : Stage), s.phase = .busy op st → s.phaseFits = true →
    s.fault = none → step s = .next t →
    (t.phase = .idle →
      t.fault = none ∧ t.ev = s.ev ∧
        ∃ r, t.resp = some r ∧
          (r.status = 0b001#3 ∨ (r.status = 0b010#3 ∧ needsInit op = true ∧ st = .busFault))) ∧
    (t.phase ≠ .idle → t.resp = s.resp) ∧
    (t.fault ≠ none → t.phase = .faulted)

/-- No rule reads the copies of the control bits, ACKDT, TRN, the configuration, the pins or the log: a step
from a state cut down to the rest does the same to the rest (R28, R31, R38, D14, D42). -/
def Obligations.CopiesNeverRead : Prop :=
  ∀ s : State, forgetOutcome (step s.forgetCopies) = forgetOutcome (step s)

/-! ### Host constants (20_memory.md R54, 30_encoding.md R89) -/

/-- The two address bytes (R54, R87). -/
def Obligations.AddressBytes : Prop :=
  ∀ p : Params,
    (addrWrite p).toNat = 2 * p.devAddr7.toNat ∧ (addrRead p).toNat = 2 * p.devAddr7.toNat + 1

/-- The control bits the host injects stand where R89 says and come off again: a plain BCD byte of the register's
range survives the injection and the strip, for every host (R89). The weekday byte's bit and the reserved bits are
parameters of the host, which is the model's form for them (log 26); no position of theirs is assumed, and where the
weekday bit is not adopted its byte goes out as it is. -/
def Obligations.ControlBitsStrip : Prop :=
  (∀ (h : HostParams) (b : Byte), h.reservedBits .seconds &&& b = 0#8 → validBcd b = true → bcdValue b ≤ 59 →
    stripControl h .seconds (injectSeconds b) = b ∧ (injectSeconds b).getLsbD 7 = true) ∧
  (∀ (h : HostParams) (b : Byte), h.reservedBits .hours &&& b = 0#8 → validBcd b = true → bcdValue b ≤ 23 →
    stripControl h .hours (injectHours b) = b ∧ (injectHours b).getLsbD 6 = false) ∧
  (∀ (h : HostParams) (b : Byte) (year : Nat), h.reservedBits .month &&& b = 0#8 → validBcd b = true →
    bcdValue b ≤ 12 →
    stripControl h .month (injectMonth year b) = b ∧
    ((injectMonth year b).getLsbD 5 = true ↔ year % 4 = 0)) ∧
  (∀ (h : HostParams) (b : Byte) (k : Fin 8), h.weekdayBit = some k → h.reservedBits .weekday &&& b = 0#8 →
    b.getLsbD k = false →
    stripControl h .weekday (injectWeekday h b) = b ∧ (injectWeekday h b).getLsbD k = true) ∧
  (∀ (h : HostParams) (b : Byte) (k : Fin 8), h.weekdayBit = some k →
    (stripControl h .weekday b).getLsbD k = false) ∧
  (∀ (h : HostParams) (b : Byte), h.weekdayBit = none →
    injectWeekday h b = b ∧ stripControl h .weekday b = b &&& ~~~h.reservedBits .weekday) ∧
  (∀ (h : HostParams) (r : SlaveReg) (b : Byte), stripControl h r b &&& h.reservedBits r = 0#8)
end

