-- ==== Sys2Proof/Laws/State.lean ====
section
/-! SUPPORT. The field lemmas of State: what each named operation leaves in each field. Later proofs use these
and do not unfold a record update. -/

namespace Sys2Proof.Machine

/-! ### The log and the phase -/

@[simp] theorem State.log_phase (e : Event) (s : State) : (s.log e).phase = s.phase := rfl
@[simp] theorem State.log_cnt (e : Event) (s : State) : (s.log e).cnt = s.cnt := rfl
@[simp] theorem State.log_pcnt (e : Event) (s : State) : (s.log e).pcnt = s.pcnt := rfl
@[simp] theorem State.log_rxd (e : Event) (s : State) : (s.log e).rxd = s.rxd := rfl
@[simp] theorem State.log_resp (e : Event) (s : State) : (s.log e).resp = s.resp := rfl
@[simp] theorem State.log_fault (e : Event) (s : State) : (s.log e).fault = s.fault := rfl
@[simp] theorem State.log_ev (e : Event) (s : State) : (s.log e).ev = s.ev ++ [e] := rfl
@[simp] theorem State.log_on (e : Event) (s : State) : (s.log e).on = s.on := rfl
@[simp] theorem State.log_cfgTiming (e : Event) (s : State) : (s.log e).cfgTiming = s.cfgTiming := rfl
@[simp] theorem State.log_cfgMode (e : Event) (s : State) : (s.log e).cfgMode = s.cfgMode := rfl
@[simp] theorem State.log_sen (e : Event) (s : State) : (s.log e).sen = s.sen := rfl
@[simp] theorem State.log_rsen (e : Event) (s : State) : (s.log e).rsen = s.rsen := rfl
@[simp] theorem State.log_pen (e : Event) (s : State) : (s.log e).pen = s.pen := rfl
@[simp] theorem State.log_rcen (e : Event) (s : State) : (s.log e).rcen = s.rcen := rfl
@[simp] theorem State.log_acken (e : Event) (s : State) : (s.log e).acken = s.acken := rfl
@[simp] theorem State.log_ackdt (e : Event) (s : State) : (s.log e).ackdt = s.ackdt := rfl
@[simp] theorem State.log_trn (e : Event) (s : State) : (s.log e).trn = s.trn := rfl
@[simp] theorem State.log_pinOwner (e : Event) (s : State) : (s.log e).pinOwner = s.pinOwner := rfl
@[simp] theorem State.log_sdaDir (e : Event) (s : State) : (s.log e).sdaDir = s.sdaDir := rfl
@[simp] theorem State.log_sclDir (e : Event) (s : State) : (s.log e).sclDir = s.sclDir := rfl
@[simp] theorem State.log_sclLat (e : Event) (s : State) : (s.log e).sclLat = s.sclLat := rfl
@[simp] theorem State.log_params (e : Event) (s : State) : (s.log e).params = s.params := rfl
@[simp] theorem State.log_host (e : Event) (s : State) : (s.log e).host = s.host := rfl
@[simp] theorem State.log_env (e : Event) (s : State) : (s.log e).env = s.env := rfl

@[simp] theorem State.goTo_phase (i : Instr) (st : Stage) (s : State) : (s.goTo i st).phase = .busy i st := rfl
@[simp] theorem State.goTo_cnt (i : Instr) (st : Stage) (s : State) : (s.goTo i st).cnt = s.cnt := rfl
@[simp] theorem State.goTo_pcnt (i : Instr) (st : Stage) (s : State) : (s.goTo i st).pcnt = s.pcnt := rfl
@[simp] theorem State.goTo_rxd (i : Instr) (st : Stage) (s : State) : (s.goTo i st).rxd = s.rxd := rfl
@[simp] theorem State.goTo_resp (i : Instr) (st : Stage) (s : State) : (s.goTo i st).resp = s.resp := rfl
@[simp] theorem State.goTo_fault (i : Instr) (st : Stage) (s : State) : (s.goTo i st).fault = s.fault := rfl
@[simp] theorem State.goTo_ev (i : Instr) (st : Stage) (s : State) : (s.goTo i st).ev = s.ev := rfl
@[simp] theorem State.goTo_on (i : Instr) (st : Stage) (s : State) : (s.goTo i st).on = s.on := rfl
@[simp] theorem State.goTo_cfgTiming (i : Instr) (st : Stage) (s : State) : (s.goTo i st).cfgTiming = s.cfgTiming := rfl
@[simp] theorem State.goTo_cfgMode (i : Instr) (st : Stage) (s : State) : (s.goTo i st).cfgMode = s.cfgMode := rfl
@[simp] theorem State.goTo_sen (i : Instr) (st : Stage) (s : State) : (s.goTo i st).sen = s.sen := rfl
@[simp] theorem State.goTo_rsen (i : Instr) (st : Stage) (s : State) : (s.goTo i st).rsen = s.rsen := rfl
@[simp] theorem State.goTo_pen (i : Instr) (st : Stage) (s : State) : (s.goTo i st).pen = s.pen := rfl
@[simp] theorem State.goTo_rcen (i : Instr) (st : Stage) (s : State) : (s.goTo i st).rcen = s.rcen := rfl
@[simp] theorem State.goTo_acken (i : Instr) (st : Stage) (s : State) : (s.goTo i st).acken = s.acken := rfl
@[simp] theorem State.goTo_ackdt (i : Instr) (st : Stage) (s : State) : (s.goTo i st).ackdt = s.ackdt := rfl
@[simp] theorem State.goTo_trn (i : Instr) (st : Stage) (s : State) : (s.goTo i st).trn = s.trn := rfl
@[simp] theorem State.goTo_pinOwner (i : Instr) (st : Stage) (s : State) : (s.goTo i st).pinOwner = s.pinOwner := rfl
@[simp] theorem State.goTo_sdaDir (i : Instr) (st : Stage) (s : State) : (s.goTo i st).sdaDir = s.sdaDir := rfl
@[simp] theorem State.goTo_sclDir (i : Instr) (st : Stage) (s : State) : (s.goTo i st).sclDir = s.sclDir := rfl
@[simp] theorem State.goTo_sclLat (i : Instr) (st : Stage) (s : State) : (s.goTo i st).sclLat = s.sclLat := rfl
@[simp] theorem State.goTo_params (i : Instr) (st : Stage) (s : State) : (s.goTo i st).params = s.params := rfl
@[simp] theorem State.goTo_host (i : Instr) (st : Stage) (s : State) : (s.goTo i st).host = s.host := rfl
@[simp] theorem State.goTo_env (i : Instr) (st : Stage) (s : State) : (s.goTo i st).env = s.env := rfl

/-! ### Raising and responding -/

@[simp] theorem State.raise_phase (c : FaultCode) (s : State) : (s.raise c).phase = .faulted := rfl
@[simp] theorem State.raise_cnt (c : FaultCode) (s : State) : (s.raise c).cnt = s.cnt := rfl
@[simp] theorem State.raise_pcnt (c : FaultCode) (s : State) : (s.raise c).pcnt = s.pcnt := rfl
@[simp] theorem State.raise_rxd (c : FaultCode) (s : State) : (s.raise c).rxd = s.rxd := rfl
@[simp] theorem State.raise_resp (c : FaultCode) (s : State) : (s.raise c).resp = s.resp := rfl
@[simp] theorem State.raise_fault (c : FaultCode) (s : State) : (s.raise c).fault = some c := rfl
@[simp] theorem State.raise_ev (c : FaultCode) (s : State) : (s.raise c).ev = s.ev := rfl
@[simp] theorem State.raise_on (c : FaultCode) (s : State) : (s.raise c).on = s.on := rfl
@[simp] theorem State.raise_cfgTiming (c : FaultCode) (s : State) : (s.raise c).cfgTiming = s.cfgTiming := rfl
@[simp] theorem State.raise_cfgMode (c : FaultCode) (s : State) : (s.raise c).cfgMode = s.cfgMode := rfl
@[simp] theorem State.raise_sen (c : FaultCode) (s : State) : (s.raise c).sen = s.sen := rfl
@[simp] theorem State.raise_rsen (c : FaultCode) (s : State) : (s.raise c).rsen = s.rsen := rfl
@[simp] theorem State.raise_pen (c : FaultCode) (s : State) : (s.raise c).pen = s.pen := rfl
@[simp] theorem State.raise_rcen (c : FaultCode) (s : State) : (s.raise c).rcen = s.rcen := rfl
@[simp] theorem State.raise_acken (c : FaultCode) (s : State) : (s.raise c).acken = s.acken := rfl
@[simp] theorem State.raise_ackdt (c : FaultCode) (s : State) : (s.raise c).ackdt = s.ackdt := rfl
@[simp] theorem State.raise_trn (c : FaultCode) (s : State) : (s.raise c).trn = s.trn := rfl
@[simp] theorem State.raise_pinOwner (c : FaultCode) (s : State) : (s.raise c).pinOwner = s.pinOwner := rfl
@[simp] theorem State.raise_sdaDir (c : FaultCode) (s : State) : (s.raise c).sdaDir = s.sdaDir := rfl
@[simp] theorem State.raise_sclDir (c : FaultCode) (s : State) : (s.raise c).sclDir = s.sclDir := rfl
@[simp] theorem State.raise_sclLat (c : FaultCode) (s : State) : (s.raise c).sclLat = s.sclLat := rfl
@[simp] theorem State.raise_params (c : FaultCode) (s : State) : (s.raise c).params = s.params := rfl
@[simp] theorem State.raise_host (c : FaultCode) (s : State) : (s.raise c).host = s.host := rfl
@[simp] theorem State.raise_env (c : FaultCode) (s : State) : (s.raise c).env = s.env := rfl

@[simp] theorem State.respond_phase (st : Status) (d : Byte) (s : State) : (s.respond st d).phase = .idle := rfl
@[simp] theorem State.respond_cnt (st : Status) (d : Byte) (s : State) : (s.respond st d).cnt = s.cnt := rfl
@[simp] theorem State.respond_pcnt (st : Status) (d : Byte) (s : State) : (s.respond st d).pcnt = s.pcnt := rfl
@[simp] theorem State.respond_rxd (st : Status) (d : Byte) (s : State) : (s.respond st d).rxd = s.rxd := rfl
@[simp] theorem State.respond_resp (st : Status) (d : Byte) (s : State) : (s.respond st d).resp = some ⟨st, d⟩ := rfl
@[simp] theorem State.respond_fault (st : Status) (d : Byte) (s : State) : (s.respond st d).fault = s.fault := rfl
@[simp] theorem State.respond_ev (st : Status) (d : Byte) (s : State) : (s.respond st d).ev = s.ev := rfl
@[simp] theorem State.respond_on (st : Status) (d : Byte) (s : State) : (s.respond st d).on = s.on := rfl
@[simp] theorem State.respond_cfgTiming (st : Status) (d : Byte) (s : State) : (s.respond st d).cfgTiming = s.cfgTiming := rfl
@[simp] theorem State.respond_cfgMode (st : Status) (d : Byte) (s : State) : (s.respond st d).cfgMode = s.cfgMode := rfl
@[simp] theorem State.respond_sen (st : Status) (d : Byte) (s : State) : (s.respond st d).sen = s.sen := rfl
@[simp] theorem State.respond_rsen (st : Status) (d : Byte) (s : State) : (s.respond st d).rsen = s.rsen := rfl
@[simp] theorem State.respond_pen (st : Status) (d : Byte) (s : State) : (s.respond st d).pen = s.pen := rfl
@[simp] theorem State.respond_rcen (st : Status) (d : Byte) (s : State) : (s.respond st d).rcen = s.rcen := rfl
@[simp] theorem State.respond_acken (st : Status) (d : Byte) (s : State) : (s.respond st d).acken = s.acken := rfl
@[simp] theorem State.respond_ackdt (st : Status) (d : Byte) (s : State) : (s.respond st d).ackdt = s.ackdt := rfl
@[simp] theorem State.respond_trn (st : Status) (d : Byte) (s : State) : (s.respond st d).trn = s.trn := rfl
@[simp] theorem State.respond_pinOwner (st : Status) (d : Byte) (s : State) : (s.respond st d).pinOwner = s.pinOwner := rfl
@[simp] theorem State.respond_sdaDir (st : Status) (d : Byte) (s : State) : (s.respond st d).sdaDir = s.sdaDir := rfl
@[simp] theorem State.respond_sclDir (st : Status) (d : Byte) (s : State) : (s.respond st d).sclDir = s.sclDir := rfl
@[simp] theorem State.respond_sclLat (st : Status) (d : Byte) (s : State) : (s.respond st d).sclLat = s.sclLat := rfl
@[simp] theorem State.respond_params (st : Status) (d : Byte) (s : State) : (s.respond st d).params = s.params := rfl
@[simp] theorem State.respond_host (st : Status) (d : Byte) (s : State) : (s.respond st d).host = s.host := rfl
@[simp] theorem State.respond_env (st : Status) (d : Byte) (s : State) : (s.respond st d).env = s.env := rfl

@[simp] theorem State.respondBusFault_phase (s : State) : (s.respondBusFault).phase = .idle := rfl
@[simp] theorem State.respondBusFault_cnt (s : State) : (s.respondBusFault).cnt = s.cnt := rfl
@[simp] theorem State.respondBusFault_pcnt (s : State) : (s.respondBusFault).pcnt = s.pcnt := rfl
@[simp] theorem State.respondBusFault_rxd (s : State) : (s.respondBusFault).rxd = s.rxd := rfl
@[simp] theorem State.respondBusFault_resp (s : State) : (s.respondBusFault).resp = some ⟨statusBusFault, Config.freeByte s.env.taken⟩ := rfl
@[simp] theorem State.respondBusFault_fault (s : State) : (s.respondBusFault).fault = s.fault := rfl
@[simp] theorem State.respondBusFault_ev (s : State) : (s.respondBusFault).ev = s.ev := rfl
@[simp] theorem State.respondBusFault_on (s : State) : (s.respondBusFault).on = s.on := rfl
@[simp] theorem State.respondBusFault_cfgTiming (s : State) : (s.respondBusFault).cfgTiming = s.cfgTiming := rfl
@[simp] theorem State.respondBusFault_cfgMode (s : State) : (s.respondBusFault).cfgMode = s.cfgMode := rfl
@[simp] theorem State.respondBusFault_sen (s : State) : (s.respondBusFault).sen = s.sen := rfl
@[simp] theorem State.respondBusFault_rsen (s : State) : (s.respondBusFault).rsen = s.rsen := rfl
@[simp] theorem State.respondBusFault_pen (s : State) : (s.respondBusFault).pen = s.pen := rfl
@[simp] theorem State.respondBusFault_rcen (s : State) : (s.respondBusFault).rcen = s.rcen := rfl
@[simp] theorem State.respondBusFault_acken (s : State) : (s.respondBusFault).acken = s.acken := rfl
@[simp] theorem State.respondBusFault_ackdt (s : State) : (s.respondBusFault).ackdt = s.ackdt := rfl
@[simp] theorem State.respondBusFault_trn (s : State) : (s.respondBusFault).trn = s.trn := rfl
@[simp] theorem State.respondBusFault_pinOwner (s : State) : (s.respondBusFault).pinOwner = s.pinOwner := rfl
@[simp] theorem State.respondBusFault_sdaDir (s : State) : (s.respondBusFault).sdaDir = s.sdaDir := rfl
@[simp] theorem State.respondBusFault_sclDir (s : State) : (s.respondBusFault).sclDir = s.sclDir := rfl
@[simp] theorem State.respondBusFault_sclLat (s : State) : (s.respondBusFault).sclLat = s.sclLat := rfl
@[simp] theorem State.respondBusFault_params (s : State) : (s.respondBusFault).params = s.params := rfl
@[simp] theorem State.respondBusFault_host (s : State) : (s.respondBusFault).host = s.host := rfl
@[simp] theorem State.respondBusFault_env (s : State) : (s.respondBusFault).env = { s.env with taken := s.env.taken + 1 } := rfl

/-! ### Pins and the receive buffer -/

@[simp] theorem State.setOwner_phase (o : Owner) (s : State) : (s.setOwner o).phase = s.phase := rfl
@[simp] theorem State.setOwner_cnt (o : Owner) (s : State) : (s.setOwner o).cnt = s.cnt := rfl
@[simp] theorem State.setOwner_pcnt (o : Owner) (s : State) : (s.setOwner o).pcnt = s.pcnt := rfl
@[simp] theorem State.setOwner_rxd (o : Owner) (s : State) : (s.setOwner o).rxd = s.rxd := rfl
@[simp] theorem State.setOwner_resp (o : Owner) (s : State) : (s.setOwner o).resp = s.resp := rfl
@[simp] theorem State.setOwner_fault (o : Owner) (s : State) : (s.setOwner o).fault = s.fault := rfl
@[simp] theorem State.setOwner_ev (o : Owner) (s : State) : (s.setOwner o).ev = s.ev ++ [.own o] := rfl
@[simp] theorem State.setOwner_on (o : Owner) (s : State) : (s.setOwner o).on = s.on := rfl
@[simp] theorem State.setOwner_cfgTiming (o : Owner) (s : State) : (s.setOwner o).cfgTiming = s.cfgTiming := rfl
@[simp] theorem State.setOwner_cfgMode (o : Owner) (s : State) : (s.setOwner o).cfgMode = s.cfgMode := rfl
@[simp] theorem State.setOwner_sen (o : Owner) (s : State) : (s.setOwner o).sen = s.sen := rfl
@[simp] theorem State.setOwner_rsen (o : Owner) (s : State) : (s.setOwner o).rsen = s.rsen := rfl
@[simp] theorem State.setOwner_pen (o : Owner) (s : State) : (s.setOwner o).pen = s.pen := rfl
@[simp] theorem State.setOwner_rcen (o : Owner) (s : State) : (s.setOwner o).rcen = s.rcen := rfl
@[simp] theorem State.setOwner_acken (o : Owner) (s : State) : (s.setOwner o).acken = s.acken := rfl
@[simp] theorem State.setOwner_ackdt (o : Owner) (s : State) : (s.setOwner o).ackdt = s.ackdt := rfl
@[simp] theorem State.setOwner_trn (o : Owner) (s : State) : (s.setOwner o).trn = s.trn := rfl
@[simp] theorem State.setOwner_pinOwner (o : Owner) (s : State) : (s.setOwner o).pinOwner = o := rfl
@[simp] theorem State.setOwner_sdaDir (o : Owner) (s : State) : (s.setOwner o).sdaDir = s.sdaDir := rfl
@[simp] theorem State.setOwner_sclDir (o : Owner) (s : State) : (s.setOwner o).sclDir = s.sclDir := rfl
@[simp] theorem State.setOwner_sclLat (o : Owner) (s : State) : (s.setOwner o).sclLat = s.sclLat := rfl
@[simp] theorem State.setOwner_params (o : Owner) (s : State) : (s.setOwner o).params = s.params := rfl
@[simp] theorem State.setOwner_host (o : Owner) (s : State) : (s.setOwner o).host = s.host := rfl
@[simp] theorem State.setOwner_env (o : Owner) (s : State) : (s.setOwner o).env = s.env := rfl

@[simp] theorem State.pinWriteScl_phase (b : Bit) (s : State) : (s.pinWriteScl b).phase = s.phase := rfl
@[simp] theorem State.pinWriteScl_cnt (b : Bit) (s : State) : (s.pinWriteScl b).cnt = s.cnt := rfl
@[simp] theorem State.pinWriteScl_pcnt (b : Bit) (s : State) : (s.pinWriteScl b).pcnt = s.pcnt := rfl
@[simp] theorem State.pinWriteScl_rxd (b : Bit) (s : State) : (s.pinWriteScl b).rxd = s.rxd := rfl
@[simp] theorem State.pinWriteScl_resp (b : Bit) (s : State) : (s.pinWriteScl b).resp = s.resp := rfl
@[simp] theorem State.pinWriteScl_fault (b : Bit) (s : State) : (s.pinWriteScl b).fault = s.fault := rfl
@[simp] theorem State.pinWriteScl_ev (b : Bit) (s : State) : (s.pinWriteScl b).ev = s.ev ++ [.scl b] := rfl
@[simp] theorem State.pinWriteScl_on (b : Bit) (s : State) : (s.pinWriteScl b).on = s.on := rfl
@[simp] theorem State.pinWriteScl_cfgTiming (b : Bit) (s : State) : (s.pinWriteScl b).cfgTiming = s.cfgTiming := rfl
@[simp] theorem State.pinWriteScl_cfgMode (b : Bit) (s : State) : (s.pinWriteScl b).cfgMode = s.cfgMode := rfl
@[simp] theorem State.pinWriteScl_sen (b : Bit) (s : State) : (s.pinWriteScl b).sen = s.sen := rfl
@[simp] theorem State.pinWriteScl_rsen (b : Bit) (s : State) : (s.pinWriteScl b).rsen = s.rsen := rfl
@[simp] theorem State.pinWriteScl_pen (b : Bit) (s : State) : (s.pinWriteScl b).pen = s.pen := rfl
@[simp] theorem State.pinWriteScl_rcen (b : Bit) (s : State) : (s.pinWriteScl b).rcen = s.rcen := rfl
@[simp] theorem State.pinWriteScl_acken (b : Bit) (s : State) : (s.pinWriteScl b).acken = s.acken := rfl
@[simp] theorem State.pinWriteScl_ackdt (b : Bit) (s : State) : (s.pinWriteScl b).ackdt = s.ackdt := rfl
@[simp] theorem State.pinWriteScl_trn (b : Bit) (s : State) : (s.pinWriteScl b).trn = s.trn := rfl
@[simp] theorem State.pinWriteScl_pinOwner (b : Bit) (s : State) : (s.pinWriteScl b).pinOwner = s.pinOwner := rfl
@[simp] theorem State.pinWriteScl_sdaDir (b : Bit) (s : State) : (s.pinWriteScl b).sdaDir = s.sdaDir := rfl
@[simp] theorem State.pinWriteScl_sclDir (b : Bit) (s : State) : (s.pinWriteScl b).sclDir = s.sclDir := rfl
@[simp] theorem State.pinWriteScl_sclLat (b : Bit) (s : State) : (s.pinWriteScl b).sclLat = b := rfl
@[simp] theorem State.pinWriteScl_params (b : Bit) (s : State) : (s.pinWriteScl b).params = s.params := rfl
@[simp] theorem State.pinWriteScl_host (b : Bit) (s : State) : (s.pinWriteScl b).host = s.host := rfl
@[simp] theorem State.pinWriteScl_env (b : Bit) (s : State) : (s.pinWriteScl b).env = s.env := rfl

@[simp] theorem State.delay_phase (s : State) : (s.delay).phase = s.phase := rfl
@[simp] theorem State.delay_cnt (s : State) : (s.delay).cnt = s.cnt := rfl
@[simp] theorem State.delay_pcnt (s : State) : (s.delay).pcnt = s.pcnt := rfl
@[simp] theorem State.delay_rxd (s : State) : (s.delay).rxd = s.rxd := rfl
@[simp] theorem State.delay_resp (s : State) : (s.delay).resp = s.resp := rfl
@[simp] theorem State.delay_fault (s : State) : (s.delay).fault = s.fault := rfl
@[simp] theorem State.delay_ev (s : State) : (s.delay).ev = s.ev ++ [.delay] := rfl
@[simp] theorem State.delay_on (s : State) : (s.delay).on = s.on := rfl
@[simp] theorem State.delay_cfgTiming (s : State) : (s.delay).cfgTiming = s.cfgTiming := rfl
@[simp] theorem State.delay_cfgMode (s : State) : (s.delay).cfgMode = s.cfgMode := rfl
@[simp] theorem State.delay_sen (s : State) : (s.delay).sen = s.sen := rfl
@[simp] theorem State.delay_rsen (s : State) : (s.delay).rsen = s.rsen := rfl
@[simp] theorem State.delay_pen (s : State) : (s.delay).pen = s.pen := rfl
@[simp] theorem State.delay_rcen (s : State) : (s.delay).rcen = s.rcen := rfl
@[simp] theorem State.delay_acken (s : State) : (s.delay).acken = s.acken := rfl
@[simp] theorem State.delay_ackdt (s : State) : (s.delay).ackdt = s.ackdt := rfl
@[simp] theorem State.delay_trn (s : State) : (s.delay).trn = s.trn := rfl
@[simp] theorem State.delay_pinOwner (s : State) : (s.delay).pinOwner = s.pinOwner := rfl
@[simp] theorem State.delay_sdaDir (s : State) : (s.delay).sdaDir = s.sdaDir := rfl
@[simp] theorem State.delay_sclDir (s : State) : (s.delay).sclDir = s.sclDir := rfl
@[simp] theorem State.delay_sclLat (s : State) : (s.delay).sclLat = s.sclLat := rfl
@[simp] theorem State.delay_params (s : State) : (s.delay).params = s.params := rfl
@[simp] theorem State.delay_host (s : State) : (s.delay).host = s.host := rfl
@[simp] theorem State.delay_env (s : State) : (s.delay).env = s.env := rfl

@[simp] theorem State.pinReadSda_phase (s : State) : (s.pinReadSda.2).phase = s.phase := rfl
@[simp] theorem State.pinReadSda_cnt (s : State) : (s.pinReadSda.2).cnt = s.cnt := rfl
@[simp] theorem State.pinReadSda_pcnt (s : State) : (s.pinReadSda.2).pcnt = s.pcnt := rfl
@[simp] theorem State.pinReadSda_rxd (s : State) : (s.pinReadSda.2).rxd = s.rxd := rfl
@[simp] theorem State.pinReadSda_resp (s : State) : (s.pinReadSda.2).resp = s.resp := rfl
@[simp] theorem State.pinReadSda_fault (s : State) : (s.pinReadSda.2).fault = s.fault := rfl
@[simp] theorem State.pinReadSda_ev (s : State) : (s.pinReadSda.2).ev = s.ev ++ [.sda s.env.drawBit.1] := rfl
@[simp] theorem State.pinReadSda_on (s : State) : (s.pinReadSda.2).on = s.on := rfl
@[simp] theorem State.pinReadSda_cfgTiming (s : State) : (s.pinReadSda.2).cfgTiming = s.cfgTiming := rfl
@[simp] theorem State.pinReadSda_cfgMode (s : State) : (s.pinReadSda.2).cfgMode = s.cfgMode := rfl
@[simp] theorem State.pinReadSda_sen (s : State) : (s.pinReadSda.2).sen = s.sen := rfl
@[simp] theorem State.pinReadSda_rsen (s : State) : (s.pinReadSda.2).rsen = s.rsen := rfl
@[simp] theorem State.pinReadSda_pen (s : State) : (s.pinReadSda.2).pen = s.pen := rfl
@[simp] theorem State.pinReadSda_rcen (s : State) : (s.pinReadSda.2).rcen = s.rcen := rfl
@[simp] theorem State.pinReadSda_acken (s : State) : (s.pinReadSda.2).acken = s.acken := rfl
@[simp] theorem State.pinReadSda_ackdt (s : State) : (s.pinReadSda.2).ackdt = s.ackdt := rfl
@[simp] theorem State.pinReadSda_trn (s : State) : (s.pinReadSda.2).trn = s.trn := rfl
@[simp] theorem State.pinReadSda_pinOwner (s : State) : (s.pinReadSda.2).pinOwner = s.pinOwner := rfl
@[simp] theorem State.pinReadSda_sdaDir (s : State) : (s.pinReadSda.2).sdaDir = s.sdaDir := rfl
@[simp] theorem State.pinReadSda_sclDir (s : State) : (s.pinReadSda.2).sclDir = s.sclDir := rfl
@[simp] theorem State.pinReadSda_sclLat (s : State) : (s.pinReadSda.2).sclLat = s.sclLat := rfl
@[simp] theorem State.pinReadSda_params (s : State) : (s.pinReadSda.2).params = s.params := rfl
@[simp] theorem State.pinReadSda_host (s : State) : (s.pinReadSda.2).host = s.host := rfl
@[simp] theorem State.pinReadSda_env (s : State) : (s.pinReadSda.2).env = s.env.drawBit.2 := rfl

@[simp] theorem State.pinReadSda_bit (s : State) : s.pinReadSda.1 = s.env.drawBit.1 := rfl

@[simp] theorem State.readRcv_phase (s : State) : (s.readRcv).phase = s.phase := rfl
@[simp] theorem State.readRcv_cnt (s : State) : (s.readRcv).cnt = s.cnt := rfl
@[simp] theorem State.readRcv_pcnt (s : State) : (s.readRcv).pcnt = s.pcnt := rfl
@[simp] theorem State.readRcv_rxd (s : State) : (s.readRcv).rxd = busByte s.params s.env.drawByte.1 := rfl
@[simp] theorem State.readRcv_resp (s : State) : (s.readRcv).resp = s.resp := rfl
@[simp] theorem State.readRcv_fault (s : State) : (s.readRcv).fault = s.fault := rfl
@[simp] theorem State.readRcv_ev (s : State) : (s.readRcv).ev = s.ev ++ [.rd (busByte s.params s.env.drawByte.1)] := rfl
@[simp] theorem State.readRcv_on (s : State) : (s.readRcv).on = s.on := rfl
@[simp] theorem State.readRcv_cfgTiming (s : State) : (s.readRcv).cfgTiming = s.cfgTiming := rfl
@[simp] theorem State.readRcv_cfgMode (s : State) : (s.readRcv).cfgMode = s.cfgMode := rfl
@[simp] theorem State.readRcv_sen (s : State) : (s.readRcv).sen = s.sen := rfl
@[simp] theorem State.readRcv_rsen (s : State) : (s.readRcv).rsen = s.rsen := rfl
@[simp] theorem State.readRcv_pen (s : State) : (s.readRcv).pen = s.pen := rfl
@[simp] theorem State.readRcv_rcen (s : State) : (s.readRcv).rcen = s.rcen := rfl
@[simp] theorem State.readRcv_acken (s : State) : (s.readRcv).acken = s.acken := rfl
@[simp] theorem State.readRcv_ackdt (s : State) : (s.readRcv).ackdt = s.ackdt := rfl
@[simp] theorem State.readRcv_trn (s : State) : (s.readRcv).trn = s.trn := rfl
@[simp] theorem State.readRcv_pinOwner (s : State) : (s.readRcv).pinOwner = s.pinOwner := rfl
@[simp] theorem State.readRcv_sdaDir (s : State) : (s.readRcv).sdaDir = s.sdaDir := rfl
@[simp] theorem State.readRcv_sclDir (s : State) : (s.readRcv).sclDir = s.sclDir := rfl
@[simp] theorem State.readRcv_sclLat (s : State) : (s.readRcv).sclLat = s.sclLat := rfl
@[simp] theorem State.readRcv_params (s : State) : (s.readRcv).params = s.params := rfl
@[simp] theorem State.readRcv_host (s : State) : (s.readRcv).host = s.host := rfl
@[simp] theorem State.readRcv_env (s : State) : (s.readRcv).env = s.env.drawByte.2 := rfl

/-! ### Directions of the pins -/

theorem State.pinDir_sda (d : Dir) (s : State) :
    s.pinDir .sda d = ({ s with sdaDir := d } : State).log (.dir .sda d) := rfl

theorem State.pinDir_scl (d : Dir) (s : State) :
    s.pinDir .scl d = ({ s with sclDir := d } : State).log (.dir .scl d) := rfl

/-! ### Field writes: one equation per field written, and the fields no write touches -/

theorem State.regWrite_cfgTiming (v : ConfigValue) (s : State) :
    s.regWrite (.cfgTiming v) = { s with cfgTiming := v, ev := s.ev ++ [.wr (.cfgTiming v)] } := rfl

theorem State.regWrite_cfgMode (v : ConfigValue) (s : State) :
    s.regWrite (.cfgMode v) = { s with cfgMode := v, ev := s.ev ++ [.wr (.cfgMode v)] } := rfl

theorem State.regWrite_sen (v : Bit) (s : State) :
    s.regWrite (.sen v) = { s with sen := v, ev := s.ev ++ [.wr (.sen v)] } := rfl

theorem State.regWrite_rsen (v : Bit) (s : State) :
    s.regWrite (.rsen v) = { s with rsen := v, ev := s.ev ++ [.wr (.rsen v)] } := rfl

theorem State.regWrite_pen (v : Bit) (s : State) :
    s.regWrite (.pen v) = { s with pen := v, ev := s.ev ++ [.wr (.pen v)] } := rfl

theorem State.regWrite_rcen (v : Bit) (s : State) :
    s.regWrite (.rcen v) = { s with rcen := v, ev := s.ev ++ [.wr (.rcen v)] } := rfl

theorem State.regWrite_acken (v : Bit) (s : State) :
    s.regWrite (.acken v) = { s with acken := v, ev := s.ev ++ [.wr (.acken v)] } := rfl

theorem State.regWrite_ackdt (v : Bit) (s : State) :
    s.regWrite (.ackdt v) = { s with ackdt := v, ev := s.ev ++ [.wr (.ackdt v)] } := rfl

theorem State.regWrite_trn (v : Byte) (s : State) :
    s.regWrite (.trn v) = { s with trn := v, ev := s.ev ++ [.wr (.trn v)] } := rfl

theorem State.regWrite_on_one (s : State) :
    s.regWrite (.on true) = { s with on := true, ev := s.ev ++ [.wr (.on true)] } := rfl

theorem State.regWrite_on_zero (s : State) :
    s.regWrite (.on false) =
      { s with
        on := false, sen := false, rsen := false, pen := false, rcen := false, acken := false,
        ev := s.ev ++ [.wr (.on false)] } := rfl

@[simp] theorem State.regWrite_keeps_phase (w : RegWr) (s : State) : (s.regWrite w).phase = s.phase := by
  rcases w with _ | _ | b | _ | _ | _ | _ | _ | _ | _ <;> first | rfl | (cases b <;> rfl)
@[simp] theorem State.regWrite_keeps_cnt (w : RegWr) (s : State) : (s.regWrite w).cnt = s.cnt := by
  rcases w with _ | _ | b | _ | _ | _ | _ | _ | _ | _ <;> first | rfl | (cases b <;> rfl)
@[simp] theorem State.regWrite_keeps_pcnt (w : RegWr) (s : State) : (s.regWrite w).pcnt = s.pcnt := by
  rcases w with _ | _ | b | _ | _ | _ | _ | _ | _ | _ <;> first | rfl | (cases b <;> rfl)
@[simp] theorem State.regWrite_keeps_rxd (w : RegWr) (s : State) : (s.regWrite w).rxd = s.rxd := by
  rcases w with _ | _ | b | _ | _ | _ | _ | _ | _ | _ <;> first | rfl | (cases b <;> rfl)
@[simp] theorem State.regWrite_keeps_resp (w : RegWr) (s : State) : (s.regWrite w).resp = s.resp := by
  rcases w with _ | _ | b | _ | _ | _ | _ | _ | _ | _ <;> first | rfl | (cases b <;> rfl)
@[simp] theorem State.regWrite_keeps_fault (w : RegWr) (s : State) : (s.regWrite w).fault = s.fault := by
  rcases w with _ | _ | b | _ | _ | _ | _ | _ | _ | _ <;> first | rfl | (cases b <;> rfl)
@[simp] theorem State.regWrite_keeps_pinOwner (w : RegWr) (s : State) : (s.regWrite w).pinOwner = s.pinOwner := by
  rcases w with _ | _ | b | _ | _ | _ | _ | _ | _ | _ <;> first | rfl | (cases b <;> rfl)
@[simp] theorem State.regWrite_keeps_sdaDir (w : RegWr) (s : State) : (s.regWrite w).sdaDir = s.sdaDir := by
  rcases w with _ | _ | b | _ | _ | _ | _ | _ | _ | _ <;> first | rfl | (cases b <;> rfl)
@[simp] theorem State.regWrite_keeps_sclDir (w : RegWr) (s : State) : (s.regWrite w).sclDir = s.sclDir := by
  rcases w with _ | _ | b | _ | _ | _ | _ | _ | _ | _ <;> first | rfl | (cases b <;> rfl)
@[simp] theorem State.regWrite_keeps_sclLat (w : RegWr) (s : State) : (s.regWrite w).sclLat = s.sclLat := by
  rcases w with _ | _ | b | _ | _ | _ | _ | _ | _ | _ <;> first | rfl | (cases b <;> rfl)
@[simp] theorem State.regWrite_keeps_params (w : RegWr) (s : State) : (s.regWrite w).params = s.params := by
  rcases w with _ | _ | b | _ | _ | _ | _ | _ | _ | _ <;> first | rfl | (cases b <;> rfl)
@[simp] theorem State.regWrite_keeps_host (w : RegWr) (s : State) : (s.regWrite w).host = s.host := by
  rcases w with _ | _ | b | _ | _ | _ | _ | _ | _ | _ <;> first | rfl | (cases b <;> rfl)
@[simp] theorem State.regWrite_keeps_env (w : RegWr) (s : State) : (s.regWrite w).env = s.env := by
  rcases w with _ | _ | b | _ | _ | _ | _ | _ | _ | _ <;> first | rfl | (cases b <;> rfl)
@[simp] theorem State.regWrite_ev (w : RegWr) (s : State) : (s.regWrite w).ev = s.ev ++ [.wr w] := by
  rcases w with _ | _ | b | _ | _ | _ | _ | _ | _ | _ <;> first | rfl | (cases b <;> rfl)

/-! ### A poll -/

theorem State.notePoll_eq (p : Flag) (b : Bit) (s : State) :
    s.notePoll p b =
      { s with
        sen := s.sen && (b || p != .sen), rsen := s.rsen && (b || p != .rsen)
        pen := s.pen && (b || p != .pen), acken := s.acken && (b || p != .acken)
        rcen := s.rcen && !(b && p == .rbf) } := by
  cases s; cases p <;> cases b <;> simp [State.notePoll]

@[simp] theorem State.poll_bit (p : Flag) (s : State) : (s.poll p).1 = s.env.drawBit.1 := rfl

@[simp] theorem State.poll_phase (p : Flag) (s : State) : ((s.poll p).2).phase = s.phase := by
  simp [State.poll, State.notePoll_eq]
@[simp] theorem State.poll_cnt (p : Flag) (s : State) : ((s.poll p).2).cnt = s.cnt := by
  simp [State.poll, State.notePoll_eq]
@[simp] theorem State.poll_pcnt (p : Flag) (s : State) : ((s.poll p).2).pcnt = s.pcnt := by
  simp [State.poll, State.notePoll_eq]
@[simp] theorem State.poll_rxd (p : Flag) (s : State) : ((s.poll p).2).rxd = s.rxd := by
  simp [State.poll, State.notePoll_eq]
@[simp] theorem State.poll_resp (p : Flag) (s : State) : ((s.poll p).2).resp = s.resp := by
  simp [State.poll, State.notePoll_eq]
@[simp] theorem State.poll_fault (p : Flag) (s : State) : ((s.poll p).2).fault = s.fault := by
  simp [State.poll, State.notePoll_eq]
@[simp] theorem State.poll_ev (p : Flag) (s : State) : ((s.poll p).2).ev = s.ev ++ [.poll p s.env.drawBit.1] := by
  simp [State.poll, State.notePoll_eq]
@[simp] theorem State.poll_on (p : Flag) (s : State) : ((s.poll p).2).on = s.on := by
  simp [State.poll, State.notePoll_eq]
@[simp] theorem State.poll_cfgTiming (p : Flag) (s : State) : ((s.poll p).2).cfgTiming = s.cfgTiming := by
  simp [State.poll, State.notePoll_eq]
@[simp] theorem State.poll_cfgMode (p : Flag) (s : State) : ((s.poll p).2).cfgMode = s.cfgMode := by
  simp [State.poll, State.notePoll_eq]
@[simp] theorem State.poll_sen (p : Flag) (s : State) : ((s.poll p).2).sen = (s.sen && (s.env.drawBit.1 || p != .sen)) := by
  simp [State.poll, State.notePoll_eq]
@[simp] theorem State.poll_rsen (p : Flag) (s : State) : ((s.poll p).2).rsen = (s.rsen && (s.env.drawBit.1 || p != .rsen)) := by
  simp [State.poll, State.notePoll_eq]
@[simp] theorem State.poll_pen (p : Flag) (s : State) : ((s.poll p).2).pen = (s.pen && (s.env.drawBit.1 || p != .pen)) := by
  simp [State.poll, State.notePoll_eq]
@[simp] theorem State.poll_rcen (p : Flag) (s : State) : ((s.poll p).2).rcen = (s.rcen && !(s.env.drawBit.1 && p == .rbf)) := by
  simp [State.poll, State.notePoll_eq]
@[simp] theorem State.poll_acken (p : Flag) (s : State) : ((s.poll p).2).acken = (s.acken && (s.env.drawBit.1 || p != .acken)) := by
  simp [State.poll, State.notePoll_eq]
@[simp] theorem State.poll_ackdt (p : Flag) (s : State) : ((s.poll p).2).ackdt = s.ackdt := by
  simp [State.poll, State.notePoll_eq]
@[simp] theorem State.poll_trn (p : Flag) (s : State) : ((s.poll p).2).trn = s.trn := by
  simp [State.poll, State.notePoll_eq]
@[simp] theorem State.poll_pinOwner (p : Flag) (s : State) : ((s.poll p).2).pinOwner = s.pinOwner := by
  simp [State.poll, State.notePoll_eq]
@[simp] theorem State.poll_sdaDir (p : Flag) (s : State) : ((s.poll p).2).sdaDir = s.sdaDir := by
  simp [State.poll, State.notePoll_eq]
@[simp] theorem State.poll_sclDir (p : Flag) (s : State) : ((s.poll p).2).sclDir = s.sclDir := by
  simp [State.poll, State.notePoll_eq]
@[simp] theorem State.poll_sclLat (p : Flag) (s : State) : ((s.poll p).2).sclLat = s.sclLat := by
  simp [State.poll, State.notePoll_eq]
@[simp] theorem State.poll_params (p : Flag) (s : State) : ((s.poll p).2).params = s.params := by
  simp [State.poll, State.notePoll_eq]
@[simp] theorem State.poll_host (p : Flag) (s : State) : ((s.poll p).2).host = s.host := by
  simp [State.poll, State.notePoll_eq]
@[simp] theorem State.poll_env (p : Flag) (s : State) : ((s.poll p).2).env = s.env.drawBit.2 := by
  simp [State.poll, State.notePoll_eq]

end Sys2Proof.Machine
end

