-- ==== Sys2Proof/Laws/Ops.lean ====
section
/-! SUPPORT. What each shared operation can do, said once: draws, polls and waits, the acceptance of a command,
one step of a command, one step of the machine. Later proofs cite these and do not unfold the operations. -/

namespace Sys2Proof.Machine

/-! ### Draws (R11) -/

theorem Env.drawBit_listed {e : Env} {b : Bit} {rest : List Bit} (h : e.bits = b :: rest) :
    e.drawBit = (b, { e with bits := rest }) := by
  simp [Env.drawBit, h]

/-- With no answer listed, the answers that come for ever are listed again. -/
theorem Env.drawBit_cycle {e : Env} (h : e.bits = []) (hc : e.cycle ≠ []) :
    e.drawBit = ({ e with bits := e.cycle } : Env).drawBit := by
  obtain ⟨b, rest, hb⟩ := List.exists_cons_of_ne_nil hc
  simp [Env.drawBit, h, hb]

theorem Env.drawBit_free {e : Env} (h : e.bits = []) (hc : e.cycle = []) :
    e.drawBit = (Config.freeBit e.taken, { e with taken := e.taken + 1 }) := by
  simp [Env.drawBit, h, hc]

/-- A stuck line: it reads the same bit for ever, and drawing leaves the environment as it is. -/
theorem Env.drawBit_stuck {e : Env} {b : Bit} (h : e.bits = []) (hc : e.cycle = [b]) :
    e.drawBit = (b, e) := by
  cases e; simp_all [Env.drawBit]

theorem Env.drawByte_listed {e : Env} {v : Byte} {rest : List Byte} (h : e.bytes = v :: rest) :
    e.drawByte = (v, { e with bytes := rest }) := by
  simp [Env.drawByte, h]

theorem Env.drawByte_free {e : Env} (h : e.bytes = []) :
    e.drawByte = (Config.freeByte e.taken, { e with taken := e.taken + 1 }) := by
  simp [Env.drawByte, h]

/-! ### Bus data transfers (R6, R58) -/

theorem busByte_whole {p : Params} (h : 8 ≤ p.dataWidth) (v : Byte) : busByte p v = v := by
  apply BitVec.eq_of_toNat_eq
  have := v.isLt
  have : 2 ^ 8 ≤ 2 ^ p.dataWidth := Nat.pow_le_pow_right (by omega) h
  simp only [busByte, BitVec.toNat_setWidth]
  rw [Nat.mod_eq_of_lt (a := v.toNat) (by omega), Nat.mod_eq_of_lt (by omega)]

@[simp] theorem busByte_twice (p : Params) (v : Byte) : busByte p (busByte p v) = busByte p v := by
  apply BitVec.eq_of_getLsbD_eq
  intro i hi
  simp only [busByte, BitVec.getLsbD_setWidth]
  rcases Nat.lt_or_ge i p.dataWidth with h | h <;> simp [h, hi]

/-! ### Waits (R121, R122, R177) -/

/-- The state one poll of a timed wait leaves: the poll's, with the counter advanced. -/
theorem State.timedPoll_state (p : Flag) (want : Bit) (first : Bool) (s : State) :
    (s.timedPoll p want first).2 = { (s.poll p).2 with cnt := (if first then 0 else s.cnt) + 1 } := by
  simp [State.timedPoll]

/-- How one poll of a timed wait ends. -/
theorem State.timedPoll_end (p : Flag) (want : Bit) (first : Bool) (s : State) :
    (s.timedPoll p want first).1 =
      if s.env.drawBit.1 == want then .ok
      else if (if first then 0 else s.cnt) + 1 == s.params.timeout then .timeout else .again := by
  simp [State.timedPoll]

/-- One poll of a guarded wait, said whole: the poll's state, the counter, and the next stage. -/
theorem waitLine_eq (p : Flag) (want : Bit) (i : Instr) (n : Nat) (first : Bool) (s : State) :
    waitLine p want i n first s =
      { (s.poll p).2 with
        cnt := (if first then 0 else s.cnt) + 1
        phase :=
          .busy i
            (if s.env.drawBit.1 == want then .line (n + 1)
             else if (if first then 0 else s.cnt) + 1 == s.params.timeout then .recovery .enter
             else .more n) } := by
  unfold waitLine
  have h1 := State.timedPoll_state p want first s
  have h2 := State.timedPoll_end p want first s
  rcases h : s.timedPoll p want first with ⟨e, t⟩
  rw [h] at h1 h2
  subst h1 h2
  split <;> rename_i heq <;> simp only [Prod.mk.injEq] at heq <;> obtain ⟨h1, rfl⟩ := heq <;>
    split_ifs at h1 ⊢ <;> rfl

/-- One poll of a wait of recovery's epilogue, said whole. -/
theorem State.epiloguePoll_eq (i : Instr) (p : Flag) (first : Bool) (more next : RecStep) (s : State) :
    s.epiloguePoll i p first more next =
      { (s.poll p).2 with
        cnt := (if first then 0 else s.cnt) + 1
        phase :=
          .busy i
            (.recovery
              (if s.env.drawBit.1 == false then next
               else if (if first then 0 else s.cnt) + 1 == s.params.timeout then
                 (if s.params.nestedRecovery then .enter else next)
               else more)) } := by
  unfold State.epiloguePoll
  have h1 := State.timedPoll_state p false first s
  have h2 := State.timedPoll_end p false first s
  rcases h : s.timedPoll p false first with ⟨e, t⟩
  rw [h] at h1 h2
  subst h1 h2
  split <;> rename_i heq <;> simp only [Prod.mk.injEq] at heq <;> obtain ⟨h1, rfl⟩ := heq <;>
    split_ifs at h1 ⊢ <;> simp_all [State.goTo, State.enterRecovery]

/-- One sample of recovery, said whole (R172). -/
theorem State.recSample_eq (i : Instr) (s : State) :
    s.recSample i =
      { s.pinReadSda.2 with
        phase :=
          .busy i
            (.recovery
              (if s.env.drawBit.1 || s.pcnt == s.params.recoveryCap then .release else .lowWrite)) } := by
  unfold State.recSample
  simp only [State.pinReadSda]
  split_ifs <;> simp_all [State.goTo, State.log]

/-! ### Acceptance and one step of a command (R120, R22, R204) -/

theorem State.isStopped_iff (s : State) :
    s.isStopped = true ↔ s.phase = .faulted ∨ s.fault ≠ none := by
  simp [State.isStopped, Option.isSome_iff_ne_none]

theorem State.not_stopped {s : State} (hf : s.fault = none) (hp : s.phase ≠ .faulted) :
    s.isStopped = false := by
  simp [State.isStopped, hf, hp]

theorem State.accept_cases (i : Instr) (s : State) :
    (needsInit i = true ∧ s.on = false ∧ s.accept i = s.raise .notInit) ∨
      ((needsInit i = false ∨ s.on = true) ∧ s.accept i = s.goTo i (.line 0)) := by
  unfold State.accept
  cases needsInit i <;> cases s.on <;> simp

theorem command_stopped {i : Instr} {lines : List Action} {last : Action} {s : State}
    (h : s.isStopped = true) : command i lines last s = .fault (.stopped s.fault) := by
  simp [command, h]

theorem command_idle {i : Instr} {lines : List Action} {last : Action} {s : State}
    (hf : s.fault = none) (hp : s.phase = .idle) : command i lines last s = .next (s.accept i) := by
  simp [command, State.isStopped, hf, hp]

theorem command_busy {i : Instr} {lines : List Action} {last : Action} {s : State} {st : Stage}
    (hf : s.fault = none) (hp : s.phase = .busy i st) :
    command i lines last s = .next (stageStep i lines last st s) := by
  simp [command, State.isStopped, hf, hp]

theorem command_overlap {i op : Instr} {lines : List Action} {last : Action} {s : State} {st : Stage}
    (hf : s.fault = none) (hp : s.phase = .busy op st) (hne : op ≠ i) :
    command i lines last s = .next (s.raise .busy) := by
  simp [command, State.isStopped, hf, hp, hne]

/-- Everything one step of a command can do, if it answers a next state. -/
theorem command_cases {i : Instr} {lines : List Action} {last : Action} {s t : State}
    (h : command i lines last s = .next t) :
    s.fault = none ∧
      ((s.phase = .idle ∧ t = s.accept i) ∨
        (∃ st, s.phase = .busy i st ∧ t = stageStep i lines last st s) ∨
        (∃ op st, s.phase = .busy op st ∧ op ≠ i ∧ t = s.raise .busy)) := by
  cases hs : s.isStopped with
  | true => rw [command_stopped hs] at h; cases h
  | false =>
    have hf : s.fault = none := by
      cases hf : s.fault with
      | none => rfl
      | some c => simp [State.isStopped, hf] at hs
    refine ⟨hf, ?_⟩
    cases hp : s.phase with
    | idle => rw [command_idle hf hp] at h; cases h; exact .inl ⟨rfl, rfl⟩
    | faulted => simp [State.isStopped, hp] at hs
    | busy op st =>
      by_cases hop : op = i
      · subst hop; rw [command_busy hf hp] at h; cases h; exact .inr (.inl ⟨st, rfl, rfl⟩)
      · rw [command_overlap hf hp hop] at h; cases h; exact .inr (.inr ⟨op, st, rfl, hop, rfl⟩)

theorem execRecover_recovery {s : State} {op : Instr} {r : RecStep} (hf : s.fault = none)
    (hp : s.phase = .busy op (.recovery r)) : execRecover s = .next (recoverStep op r s) := by
  simp [execRecover, State.isStopped, hf, hp]

/-- Everything RECOVER can do, if it answers a next state. -/
theorem execRecover_cases {s t : State} (h : execRecover s = .next t) :
    s.fault = none ∧
      ((∃ op r, s.phase = .busy op (.recovery r) ∧ t = recoverStep op r s) ∨
        (∃ op st, s.phase = .busy op st ∧ (∀ r, st ≠ .recovery r) ∧ t = s.raise .busy) ∨
        (s.phase = .idle ∧ t = s.raise .illegalCmd)) := by
  have hf : s.fault = none := by
    cases hf : s.fault with
    | none => rfl
    | some c => simp [execRecover, State.isStopped, hf] at h
  refine ⟨hf, ?_⟩
  cases hp : s.phase with
  | idle => simp [execRecover, State.isStopped, hf, hp] at h; exact .inr (.inr ⟨rfl, h.symm⟩)
  | faulted => simp [execRecover, State.isStopped, hp] at h
  | busy op st =>
    cases st with
    | recovery r =>
      rw [execRecover_recovery hf hp] at h; cases h; exact .inl ⟨op, r, rfl, rfl⟩
    | line n =>
      simp [execRecover, State.isStopped, hf, hp] at h
      exact .inr (.inl ⟨op, .line n, rfl, by simp, h.symm⟩)
    | more n =>
      simp [execRecover, State.isStopped, hf, hp] at h
      exact .inr (.inl ⟨op, .more n, rfl, by simp, h.symm⟩)
    | busFault =>
      simp [execRecover, State.isStopped, hf, hp] at h
      exact .inr (.inl ⟨op, .busFault, rfl, by simp, h.symm⟩)

/-! ### One step of the machine -/

theorem step_idle_waits {s : State} (hf : s.fault = none) (hp : s.phase = .idle) (hh : s.host = []) :
    step s = .next s := by
  simp [step, turn, State.isStopped, hf, hp, idleTurn, hh]

theorem step_idle_word {s : State} {w : Word} {rest : List HostMove} (hf : s.fault = none)
    (hp : s.phase = .idle) (hh : s.host = .issue w :: rest ∨ s.host = .offer w :: rest) :
    step s =
      match decode w with
      | some i => exec i { s with host := rest }
      | none => .next (({ s with host := rest } : State).raise .illegalCmd) := by
  rcases hh with hh | hh <;> simp only [step, turn, State.isStopped, hf, hp, idleTurn, hh, offered] <;>
    cases decode w <;> simp

/-- Everything the turn of an idle block whose host runs an attempt can be (R97). -/
theorem attemptTurn_cases (done left : List Word) (acc : Status) (rest : List HostMove) (s : State) :
    (∃ w ws, left = w :: ws ∧
      attemptTurn done left acc rest s =
        offered w { s with host := .attempt (done ++ [w]) ws (combineResponse done acc s.resp) :: rest }) ∨
      (left = [] ∧ done = [] ∧ attemptTurn done left acc rest s = .done s) ∨
      (left = [] ∧ successful (combineResponse done acc s.resp) = true ∧ done ≠ [] ∧
        attemptTurn done left acc rest s = .done { s with host := rest }) ∨
      (∃ w ws, left = [] ∧ done = w :: ws ∧ successful (combineResponse done acc s.resp) = false ∧
        attemptTurn done left acc rest s =
          offered w { s with host := .attempt [w] ws statusNotYet :: rest }) := by
  rcases left with _ | ⟨w, ws⟩
  · rcases done with _ | ⟨w, ws⟩
    · simp [attemptTurn]
    · cases h : successful (combineResponse (w :: ws) acc s.resp) <;> simp [attemptTurn, h]
  · simp [attemptTurn]

theorem turn_idle_attempt {s : State} {done left : List Word} {acc : Status} {rest : List HostMove}
    (hf : s.fault = none) (hp : s.phase = .idle) (hh : s.host = .attempt done left acc :: rest) :
    turn s = attemptTurn done left acc rest s := by
  simp [turn, State.isStopped, hf, hp, idleTurn, hh]

theorem step_busy_quiet {s : State} {op : Instr} {st : Stage} (hf : s.fault = none)
    (hp : s.phase = .busy op st) (hh : (∀ w rest, s.host ≠ .offer w :: rest) ∧ ∀ rest, s.host ≠ .hold :: rest) :
    step s = exec (running op st) s := by
  rcases hm : s.host with _ | ⟨_ | w | _ | _, rest⟩
  · simp [step, turn, State.isStopped, hf, hp, busyTurn, hm]
  · simp [step, turn, State.isStopped, hf, hp, busyTurn, hm]
  · exact absurd hm (hh.1 w rest)
  · exact absurd hm (hh.2 rest)
  · simp [step, turn, State.isStopped, hf, hp, busyTurn, hm]
  · simp [step, turn, State.isStopped, hf, hp, busyTurn, hm]

theorem step_busy_hold {s : State} {op : Instr} {st : Stage} {rest : List HostMove} (hf : s.fault = none)
    (hp : s.phase = .busy op st) (hh : s.host = .hold :: rest) :
    step s = exec (running op st) { s with host := rest } := by
  simp [step, turn, State.isStopped, hf, hp, busyTurn, hh]

theorem step_busy_offer {s : State} {op : Instr} {st : Stage} {w : Word} {rest : List HostMove}
    (hf : s.fault = none) (hp : s.phase = .busy op st) (hh : s.host = .offer w :: rest) :
    step s = .next (({ s with host := rest } : State).raise .busy) := by
  simp [step, turn, State.isStopped, hf, hp, busyTurn, hh]

theorem step_stopped {s : State} (h : s.isStopped = true) (hh : ∀ rest, s.host ≠ .reset :: rest) :
    step s = .fault (.stopped s.fault) := by
  rcases hm : s.host with _ | ⟨_ | w | _ | _, rest⟩
  · simp [step, turn, h, stoppedTurn, hm]
  · simp [step, turn, h, stoppedTurn, hm]
  · simp [step, turn, h, stoppedTurn, hm]
  · simp [step, turn, h, stoppedTurn, hm]
  · exact absurd hm (hh rest)
  · simp [step, turn, h, stoppedTurn, hm]

/-- Everything a turn can be. -/
theorem turn_cases (s : State) :
    (s.isStopped = true ∧ turn s = .stopped s.fault) ∨
      (∃ rest, s.host = .reset :: rest ∧ (s.isStopped = true ∨ s.phase = .idle) ∧
        turn s = .done (State.afterReset s.params rest s.env)) ∨
      (s.isStopped = false ∧ s.phase = .idle ∧
        ((s.host = [] ∧ turn s = .done s) ∨
          (∃ rest, s.host = .hold :: rest ∧ turn s = .done { s with host := rest }) ∨
          (∃ w rest, (s.host = .issue w :: rest ∨ s.host = .offer w :: rest) ∧
            ((decode w = none ∧ turn s = .done (({ s with host := rest } : State).raise .illegalCmd)) ∨
              ∃ i, decode w = some i ∧ turn s = .run i { s with host := rest })) ∨
          (∃ done left acc rest, s.host = .attempt done left acc :: rest ∧
            turn s = attemptTurn done left acc rest s))) ∨
      (s.isStopped = false ∧ ∃ op st, s.phase = .busy op st ∧
        ((∃ w rest, s.host = .offer w :: rest ∧
            turn s = .done (({ s with host := rest } : State).raise .busy)) ∨
          (∃ rest, s.host = .hold :: rest ∧ turn s = .run (running op st) { s with host := rest }) ∨
          ((∀ w rest, s.host ≠ .offer w :: rest) ∧ (∀ rest, s.host ≠ .hold :: rest) ∧
            turn s = .run (running op st) s))) := by
  cases hs : s.isStopped with
  | true =>
    rcases hm : s.host with _ | ⟨_ | w | _ | _, rest⟩ <;>
      simp [turn, hs, stoppedTurn, hm, State.deviceReset]
  | false =>
    cases hp : s.phase with
    | faulted => simp [State.isStopped, hp] at hs
    | idle =>
      rcases hm : s.host with _ | ⟨w | w | _ | _, rest⟩
      · simp [turn, hs, hp, idleTurn, hm]
      · cases hd : decode w <;> simp [turn, hs, hp, idleTurn, hm, offered, hd]
      · cases hd : decode w <;> simp [turn, hs, hp, idleTurn, hm, offered, hd]
      · simp [turn, hs, hp, idleTurn, hm]
      · simp [turn, hs, hp, idleTurn, hm, State.deviceReset]
      · simp [turn, hs, hp, idleTurn, hm]
    | busy op st =>
      rcases hm : s.host with _ | ⟨w | w | _ | _, rest⟩ <;> simp [turn, hs, hp, busyTurn, hm]

/-- A step that answers a next state runs a command's step or is done at once. -/
theorem step_cases {s t : State} (h : step s = .next t) :
    turn s = .done t ∨ ∃ i u, turn s = .run i u ∧ exec i u = .next t := by
  unfold step at h
  split at h <;> rename_i heq
  · exact .inr ⟨_, _, heq, h⟩
  · cases h; exact .inl heq
  · cases h

end Sys2Proof.Machine
end

