-- ==== Sys2Proof/Laws/PerInstr.lean ====
section
/-! SUPPORT. Laws that are said once per command. `TableRow`: a command's encoding matches its row of
spec/opcode_table.json under the row's mask. -/

namespace Sys2Proof.Laws.TableRow

/-- The command's word, under its row's mask, is its row's match. -/
def Statement (i : Instr) : Prop := encode i &&& rowMask i = rowMatch i

theorem init : Statement .init := by unfold Statement; decide
theorem start : Statement .start := by unfold Statement; decide
theorem stop : Statement .stop := by unfold Statement; decide
theorem restart : Statement .restart := by unfold Statement; decide
theorem waitidle : Statement .waitidle := by unfold Statement; decide
theorem ack : Statement .ack := by unfold Statement; decide
theorem nack : Statement .nack := by unfold Statement; decide
theorem write (b : Byte) : Statement (.write b) := by unfold Statement; revert b; decide
theorem read (last : Bit) : Statement (.read last) := by unfold Statement; revert last; decide
theorem recover : Statement .recover := by unfold Statement; decide
theorem bcdenc (n : Byte) : Statement (.bcdenc n) := by unfold Statement; revert n; decide
theorem bcddec (b : Byte) : Statement (.bcddec b) := by unfold Statement; revert b; decide

end Sys2Proof.Laws.TableRow
end

