-- ==== Sys2Proof/Machine/Assembler.lean ====
section
/-! DEFINITION. The assembler syntax of 30_encoding.md R77: one command per line, `;` starts a comment, a mnemonic
is followed by at most one operand. A line is a list of characters. -/

namespace Sys2Proof.Machine

/-- The line up to its comment (R77). -/
def dropComment : List Char → List Char
  | [] => []
  | c :: cs => if c = ';' then [] else c :: dropComment cs

/-- White space between words: blank, tab or carriage return (log 22). -/
def isBlank (c : Char) : Bool := c == ' ' || c == '\t' || c == '\r'

/-- The words of a line; `cur` is the word being read. -/
def splitWords (cur : List Char) : List Char → List (List Char)
  | [] => if cur.isEmpty then [] else [cur]
  | c :: cs =>
    if isBlank c then (if cur.isEmpty then splitWords [] cs else cur :: splitWords [] cs)
    else splitWords (cur ++ [c]) cs

/-- The value of a digit in base 16. -/
def digitValue (c : Char) : Option Nat :=
  if '0' ≤ c ∧ c ≤ '9' then some (c.toNat - '0'.toNat)
  else if 'a' ≤ c ∧ c ≤ 'f' then some (c.toNat - 'a'.toNat + 10)
  else if 'A' ≤ c ∧ c ≤ 'F' then some (c.toNat - 'A'.toNat + 10)
  else none

/-- The number that the digits go on to write, after `acc`. -/
def digitsFrom (base acc : Nat) : List Char → Option Nat
  | [] => some acc
  | c :: cs =>
    match digitValue c with
    | some d => if d < base then digitsFrom base (acc * base + d) cs else none
    | none => none

/-- A number in decimal or in `0x` hex (R77). -/
def numberOf : List Char → Option Nat
  | '0' :: 'x' :: d :: ds => digitsFrom 16 0 (d :: ds)
  | d :: ds => digitsFrom 10 0 (d :: ds)
  | [] => none

/-- The operand `#b`, a byte (R77). -/
def byteOf : List Char → Option Byte
  | '#' :: cs =>
    match numberOf cs with
    | some n => if n < 256 then some (BitVec.ofNat 8 n) else none
    | none => none
  | _ => none

/-- A table of the host's symbols that stand for a byte (R77). -/
abbrev Symbols := List (List Char × Byte)

/-- The symbols `AW` and `AR`, before any symbols of the host's for offsets (R77, R87). -/
def addressSymbols (p : Params) : Symbols := [(['A', 'W'], addrWrite p), (['A', 'R'], addrRead p)]

/-- WRITE's operand: `#b` or a symbol (R77). -/
def writeOperand (syms : Symbols) (o : List Char) : Option Byte :=
  match byteOf o with
  | some b => some b
  | none => syms.lookup o

/-- READ's operand: `MORE` or `LAST` (R77). -/
def readOperand (o : List Char) : Option Bit :=
  if o = ['M', 'O', 'R', 'E'] then some false
  else if o = ['L', 'A', 'S', 'T'] then some true
  else none

/-- The commands that take no operand, by mnemonic (R72, R77). -/
def plainMnemonics : List (List Char × Instr) :=
  [(['I', 'N', 'I', 'T'], .init), (['S', 'T', 'A', 'R', 'T'], .start), (['S', 'T', 'O', 'P'], .stop),
    (['R', 'E', 'S', 'T', 'A', 'R', 'T'], .restart), (['W', 'A', 'I', 'T', 'I', 'D', 'L', 'E'], .waitidle),
    (['A', 'C', 'K'], .ack), (['N', 'A', 'C', 'K'], .nack),
    (['R', 'E', 'C', 'O', 'V', 'E', 'R'], .recover)]

/-- A command with one operand (R77). -/
def operandLine (syms : Symbols) (m o : List Char) : Option Instr :=
  if m = ['W', 'R', 'I', 'T', 'E'] then (writeOperand syms o).map .write
  else if m = ['R', 'E', 'A', 'D'] then (readOperand o).map .read
  else if m = ['B', 'C', 'D', 'E', 'N', 'C'] then (byteOf o).map .bcdenc
  else if m = ['B', 'C', 'D', 'D', 'E', 'C'] then (byteOf o).map .bcddec
  else none

/-- The commands of one line: none for an empty line, one for a command, `none` for an error. -/
def assembleLine (syms : Symbols) (line : List Char) : Option (List Instr) :=
  match splitWords [] (dropComment line) with
  | [] => some []
  | [m] => (plainMnemonics.lookup m).map fun i => [i]
  | [m, o] => (operandLine syms m o).map fun i => [i]
  | _ => none

/-- A program is the list of words in line order (R77). -/
def assemble (syms : Symbols) (lines : List (List Char)) : Option (List Word) :=
  (lines.mapM (assembleLine syms)).map fun is => is.flatten.map encode

end Sys2Proof.Machine
end

