-- ==== Sys2Proof/Tests/Slice0.lean ====
section
/-! SUPPORT. The model's own tests: expected values are the spec's (95_test_vectors.md, or the rule named), and a
witness for the hypotheses of each statement of Certificates/Slice0/Obligations.lean. -/

namespace Sys2Proof.Tests

open Sys2Proof.Machine

/-! ### Helpers -/

/-- The small instance of 95_test_vectors.md section 0: TIMEOUT = 3, RECOVERY_CAP = 4, DEV_ADDR7 = 0x6F. -/
def smallParams : Params := ⟨3, 4, 9, 8, 0x6F#7, ⟨9, 5#9⟩, ⟨16, 6#16⟩, 0, 0, false⟩

/-- The small instance with NESTED_RECOVERY. -/
def nestedParams : Params := { smallParams with nestedRecovery := true }

/-- The reset state of the small instance, for given host moves and answers. -/
def fresh (host : List HostMove) (bits : List Bit) (bytes : List Byte) : State :=
  State.afterReset smallParams host ⟨bits, bytes, 0, []⟩

/-- The same after INIT has set ON. -/
def ready (host : List HostMove) (bits : List Bit) (bytes : List Byte) : State :=
  { fresh host bits bytes with on := true }

/-- A block busy with `op` at a stage. -/
def busyAt (op : Instr) (st : Stage) (bits : List Bit) (bytes : List Byte) : State :=
  { ready [] bits bytes with phase := .busy op st }

/-- An idle block whose last response is BUS_FAULT, on a bus that reads 1 for ever, with a retrying host. -/
def retrying (done left : List Word) (acc : Status) : State :=
  { ready [.attempt done left acc] [] [] with
    resp := some ⟨0b010#3, 0#8⟩, env := ⟨[], [], 0, [true]⟩ }

/-- A field of the next state. -/
def seen {α : Type} (f : State → α) : Host.Outcome State Fault Refusal → Option α
  | .next t => some (f t)
  | .fault _ => none
  | .refused _ => none

/-! ### Well-formedness, legal parameters, legal words: an ill-formed term for each check -/

theorem test_recover_is_ill_formed : Instr.recover.wellFormed = false := by decide
theorem test_zero_timeout_is_illegal : ({ smallParams with timeout := 0 } : Params).legal = false := by decide
theorem test_zero_cap_is_illegal : ({ smallParams with recoveryCap := 0 } : Params).legal = false := by decide
/-- V-DEC-4, V-DEC-5, V-DEC-12: RES is not 0. -/
theorem test_reserved_field_illegal :
    decode 0x0200#16 = none ∧ decode 0x0E00#16 = none ∧ decode 0x8300#16 = none := by decide
/-- V-DEC-3, V-DEC-9, V-DEC-15, V-DEC-17: L is not 0. -/
theorem test_flag_field_illegal :
    decode 0x0100#16 = none ∧ decode 0x7100#16 = none ∧ decode 0xA100#16 = none ∧
      decode 0xB100#16 = none := by decide
/-- V-DEC-2, V-DEC-7, V-DEC-11: D is not 0. -/
theorem test_data_field_illegal :
    decode 0x0001#16 = none ∧ decode 0x4080#16 = none ∧ decode 0x8001#16 = none := by decide
/-- V-DEC-13, V-DEC-18: RECOVER from the host, and the reserved codes. -/
theorem test_reserved_codes_illegal :
    decode 0x9000#16 = none ∧ decode 0xC000#16 = none ∧ decode 0xD000#16 = none ∧
      decode 0xE000#16 = none ∧ decode 0xF000#16 = none ∧ decode 0xFFFF#16 = none := by decide

/-! ### Every constructor's word, written out from R70 and R72 -/

theorem test_decode_init : decodeTable 0b0000_000_0_00000000#16 = some .init := by decide
theorem test_decode_start : decodeTable 0b0001_000_0_00000000#16 = some .start := by decide
theorem test_decode_stop : decodeTable 0b0010_000_0_00000000#16 = some .stop := by decide
theorem test_decode_restart : decodeTable 0b0011_000_0_00000000#16 = some .restart := by decide
theorem test_decode_waitidle : decodeTable 0b0100_000_0_00000000#16 = some .waitidle := by decide
theorem test_decode_ack : decodeTable 0b0101_000_0_00000000#16 = some .ack := by decide
theorem test_decode_nack : decodeTable 0b0110_000_0_00000000#16 = some .nack := by decide
theorem test_decode_write : decodeTable 0b0111_000_0_11011110#16 = some (.write 0xDE#8) := by decide
theorem test_decode_read :
    decodeTable 0b1000_000_0_00000000#16 = some (.read false) ∧
      decodeTable 0b1000_000_1_00000000#16 = some (.read true) := by decide
theorem test_decode_recover : decodeTable 0b1001_000_0_00000000#16 = some .recover := by decide
theorem test_decode_bcdenc : decodeTable 0b1010_000_0_01100100#16 = some (.bcdenc 100#8) := by decide
theorem test_decode_bcddec : decodeTable 0b1011_000_0_01011001#16 = some (.bcddec 0x59#8) := by decide
/-- Words of 95_test_vectors.md section 3: the encoder's side. -/
theorem test_encode_words :
    encode (.write 0xDE#8) = 0x70DE#16 ∧ encode (.read true) = 0x8100#16 ∧
      encode (.bcdenc 45#8) = 0xA02D#16 ∧ encode .stop = 0x2000#16 := by decide
theorem test_decode_table_word : decodeTableWord 16 0x8100 = some (.read true) := by decide

/-! ### One step of each command -/

/-- R123: INIT programs the timing parameter first. -/
theorem test_init_programs_timing :
    seen (fun t => (t.cfgTiming, t.ev)) (exec .init (busyAt .init (.line 0) [] [])) =
      some (⟨9, 5#9⟩, [.wr (.cfgTiming ⟨9, 5#9⟩)]) := by decide
/-- V-INIT-1: INIT is accepted with ON = 0. -/
theorem test_init_accepted_when_off :
    seen (·.phase) (step (fresh [.issue 0x0000#16] [] [])) = some (.busy .init (.line 0)) := by decide
/-- V-TW-5: the poll at `cnt = TIMEOUT` that reads the wanted value succeeds. -/
theorem test_start_last_poll_succeeds :
    seen (fun t => (t.phase, t.sen, t.cnt))
        (exec .start { busyAt .start (.more 1) [false] [] with cnt := 2, sen := true }) =
      some (.busy .start (.line 2), false, 3) := by decide
/-- V-TW-4: the last poll of the budget that reads 1 enters recovery, with SEN still 1. -/
theorem test_start_timeout_enters_recovery :
    seen (fun t => (t.phase, t.sen))
        (exec .start { busyAt .start (.more 1) [true] [] with cnt := 2, sen := true }) =
      some (.busy .start (.recovery .enter), true) := by decide
/-- R125. -/
theorem test_stop_sets_pen :
    seen (fun t => (t.pen, t.ev)) (exec .stop (busyAt .stop (.line 0) [] [])) =
      some (true, [.wr (.pen true)]) := by decide
/-- R126: the first poll starts the budget anew. -/
theorem test_restart_first_poll :
    seen (fun t => (t.phase, t.cnt)) (exec .restart { busyAt .restart (.line 1) [true] [] with cnt := 3 }) =
      some (.busy .restart (.more 1), 1) := by decide
/-- V-TW-8. -/
theorem test_waitidle_polls_trstat :
    seen (fun t => (t.ev, t.phase)) (exec .waitidle (busyAt .waitidle (.line 0) [false] [])) =
      some ([.poll .trstat false], .busy .waitidle (.line 1)) := by decide
/-- V-ACK-1 and V-ACK-2: the acknowledge-phase values. -/
theorem test_ack_value :
    seen (·.ackdt) (exec .ack { busyAt .ack (.line 0) [] [] with ackdt := true }) = some false := by decide
theorem test_nack_value :
    seen (·.ackdt) (exec .nack (busyAt .nack (.line 0) [] [])) = some true := by decide
/-- V-WR-0: the byte is loaded after the first idle wait. -/
theorem test_write_loads_trn :
    seen (fun t => (t.trn, t.ev)) (exec (.write 0xDE#8) (busyAt (.write 0xDE#8) (.line 1) [] [])) =
      some (0xDE#8, [.wr (.trn 0xDE#8)]) := by decide
/-- R131: the third line polls TBF. -/
theorem test_write_polls_tbf :
    seen (·.ev) (exec (.write 0xAA#8) (busyAt (.write 0xAA#8) (.line 2) [true] [])) =
      some [.poll .tbf true] := by decide
/-- V-RD-2: RBF read 1 ends the wait and clears RCEN's copy. -/
theorem test_read_rbf_set :
    seen (fun t => (t.phase, t.rcen))
        (exec (.read true) { busyAt (.read true) (.more 1) [true] [] with cnt := 1, rcen := true }) =
      some (.busy (.read true) (.line 2), false) := by decide
/-- V-RD-2: the response carries the captured byte. -/
theorem test_read_responds_rxd :
    seen (fun t => (readResponse t, t.phase))
        (exec (.read true) { busyAt (.read true) (.line 6) [] [] with rxd := 0x23#8 }) =
      some (some 0x0123#16, .idle) := by decide
/-- V-REC-1: a sample that reads 1 ends the pulse loop. -/
theorem test_recover_sample_one :
    seen (·.phase) (exec .recover { busyAt .start (.recovery .sample) [true] [] with pcnt := 1 }) =
      some (.busy .start (.recovery .release)) := by decide
/-- V-REC-SM: the cap ends the loop with every sample 0. -/
theorem test_recover_cap :
    seen (·.phase) (exec .recover { busyAt .start (.recovery .sample) [false] [] with pcnt := 4 }) =
      some (.busy .start (.recovery .release)) := by decide
/-- V-BCD-5 and V-BCD-6. -/
theorem test_bcdenc_99 :
    seen readResponse (exec (.bcdenc 99#8) (busyAt (.bcdenc 99#8) (.line 0) [] [])) =
      some (some 0x0199#16) := by decide
theorem test_bcdenc_100_faults :
    seen (·.fault) (exec (.bcdenc 100#8) (busyAt (.bcdenc 100#8) (.line 0) [] [])) =
      some (some .bcdDomain) := by decide
/-- V-BCD-11 and V-BCD-16. -/
theorem test_bcddec_59 :
    seen readResponse (exec (.bcddec 0x59#8) (busyAt (.bcddec 0x59#8) (.line 0) [] [])) =
      some (some 0x013B#16) := by decide
theorem test_bcddec_c5_faults :
    seen (·.fault) (exec (.bcddec 0xC5#8) (busyAt (.bcddec 0xC5#8) (.line 0) [] [])) =
      some (some .bcdDomain) := by decide

/-! ### Model faults and their priority (95_test_vectors.md 2.5) -/

/-- V-MF-1. -/
theorem test_start_before_init :
    seen (fun t => (t.fault, t.ev, t.resp)) (step (fresh [.issue 0x1000#16] [] [])) =
      some (some .notInit, [], none) := by decide
/-- V-MF-2: illegal wins over not initialised. -/
theorem test_illegal_before_not_init :
    seen (·.fault) (step (fresh [.issue 0xC000#16] [] [])) = some (some .illegalCmd) := by decide
/-- V-MF-5: busy wins over illegal. -/
theorem test_busy_before_illegal :
    seen (·.fault) (step { busyAt .start (.line 1) [] [] with host := [.offer 0xC000#16] }) =
      some (some .busy) := by decide
/-- V-MF-6: an offer during recovery. -/
theorem test_busy_during_recovery :
    seen (·.fault)
        (step { busyAt (.write 0#8) (.recovery .lowWrite) [] [] with host := [.offer 0x0000#16] }) =
      some (some .busy) := by decide
/-- V-MF-8: no step. -/
theorem test_no_step_when_faulted :
    seen (·.phase) (step ((fresh [.issue 0x0000#16] [] []).raise .notInit)) = none := by decide
/-- R203's numbers. -/
theorem test_fault_numbers :
    [FaultCode.illegalCmd, .notInit, .bcdDomain, .busy].map FaultCode.number = [1, 2, 3, 4] := by decide

/-! ### Status, host constants, macros, assembler -/

/-- 95_test_vectors.md 2.1: the first attempt of P2. -/
theorem test_accumulate_tainted :
    accumulate [0b001#3, 0b001#3, 0b001#3, 0b010#3, 0b001#3] = 0b011#3 ∧ mustRetry [] = true := by decide
/-- R97: after a tainted attempt the host offers its first word again, with the accumulator at NOT_YET; the
accumulated SUCCESS of the other words does not help. -/
theorem test_tainted_attempt_runs_again :
    seen (fun t => (t.host, t.phase)) (step (retrying [0x1000#16, 0x2000#16] [] 0b001#3)) =
      some ([.attempt [0x1000#16] [0x2000#16] 0b000#3], .busy .start (.line 0)) := by decide
/-- R97: after a successful attempt the host goes on. -/
theorem test_successful_attempt_ends :
    seen (·.host)
        (step { retrying [0x1000#16, 0x2000#16] [] 0b001#3 with resp := some ⟨0b001#3, 0#8⟩ }) =
      some [] := by decide
/-- A flag stuck at 1 reads 1 again and again (R241). -/
theorem test_stuck_flag :
    ((retrying [] [] 0).poll .trstat).1 = true ∧
      (((retrying [] [] 0).poll .trstat).2.poll .trstat).1 = true := by decide
/-- R6: a bus transfer of DATA_WIDTH 8, and of 4. -/
theorem test_bus_byte :
    busByte smallParams 0xDE#8 = 0xDE#8 ∧ busByte { smallParams with dataWidth := 4 } 0xDE#8 = 0x0E#8 := by
  decide
/-- 95_test_vectors.md section 0: AW = 0xDE, AR = 0xDF. -/
theorem test_address_bytes : addrWrite smallParams = 0xDE#8 ∧ addrRead smallParams = 0xDF#8 := by decide
/-- 95_test_vectors.md 2.3: years 24 and 23. -/
theorem test_leap_bit : injectMonth 24 0x06#8 = 0x26#8 ∧ injectMonth 23 0x12#8 = 0x12#8 := by decide
/-- A host with a weekday bit and reserved bits of its own; the positions are arbitrary. -/
def aHost : HostParams := ⟨some 7, [(.weekday, 0x70#8)]⟩
/-- 95_test_vectors.md 2.3 (W7): the spec's host sends weekday 3 plain and reads it back; a host with a bit for it
sets and strips that bit. -/
theorem test_weekday_byte :
    injectWeekday .notAdopted 0x03#8 = 0x03#8 ∧ stripControl .notAdopted .weekday 0x03#8 = 0x03#8 ∧
      injectWeekday aHost 0x03#8 = 0x83#8 ∧ stripControl aHost .weekday 0xF3#8 = 0x03#8 := by decide
/-- R89: seconds, hours and month strip bits 7, 6 and 5. -/
theorem test_strip_masks :
    stripControl .notAdopted .seconds 0xC5#8 = 0x45#8 ∧ stripControl .notAdopted .hours 0x53#8 = 0x13#8 ∧
      stripControl .notAdopted .month 0x26#8 = 0x06#8 ∧ stripControl .notAdopted .year 0xFF#8 = 0xFF#8 := by
  decide
/-- R96, and the words of P2. -/
theorem test_disable_osc_words :
    (disableOscAttempt smallParams).map encode =
      [0x1000#16, 0x70DE#16, 0x7000#16, 0x7000#16, 0x2000#16] := by decide
theorem test_macro_lengths :
    (getTimeAttempt smallParams).length = 14 ∧
      (setTimeAAttempt smallParams 0 0 0 0 0 0).length = 10 ∧
      (setTimeBAttempt smallParams 0).length = 5 := by decide
/-- R77. -/
theorem test_assemble :
    assemble (addressSymbols smallParams)
        ["INIT".toList, "WRITE AW ; address".toList, "".toList, "READ LAST".toList, "BCDENC #45".toList,
          "BCDDEC #0x59".toList] =
      some [0x0000#16, 0x70DE#16, 0x8100#16, 0xA02D#16, 0xB059#16] := by decide
theorem test_assemble_refuses :
    assembleLine [] "BCDENC #256".toList = none ∧ assembleLine [] "STOP #1".toList = none := by decide

/-! ### The host's placement of a word -/

theorem test_fetch_word_runs :
    seen (·.phase) (step (State.reset.withFetchWord 16 0xA02D)) =
      some (.busy (.bcdenc 45#8) (.line 0)) := by decide

/-! ### Witnesses: states and operands that meet each statement's hypotheses -/

/-- The stages at which a step statement speaks of `op`. -/
def meetsSteps (op : Instr) (bits : List Bit) (bytes : List Byte) (sts : List Stage) : Bool :=
  sts.all fun st =>
    (busyAt op st bits bytes).fault == none && (busyAt op st bits bytes).phase == .busy op st

theorem witness_EncodeOfDecode : decodeTable 0x70FF#16 = some (.write 0xFF#8) := by decide
theorem witness_StatusAlgebra :
    [0b001#3, 0b010#3] ≠ [] ∧ ∀ x ∈ [0b001#3, 0b010#3], x = 0b001#3 ∨ x = 0b010#3 := by decide
theorem witness_DeviceResetClears :
    (fresh [.reset] [] []).host = .reset :: [] ∧ (fresh [.reset] [] []).phase = .idle ∧
      ((fresh [.reset] [] []).raise .busy).phase = .faulted ∧
      ((fresh [.reset] [] []).raise .busy).fault ≠ none := by decide
theorem witness_StepKeepsInvariant :
    (busyAt .start (.line 0) [] []).inv = true ∧
      seen (·.phase) (step (busyAt .start (.line 0) [] [])) = some (.busy .start (.line 1)) := by decide
theorem witness_IdlePeripheralOwnsLines :
    smallParams.legal = true ∧
      seen (·.phase) (Host.Core.run Sys2Proof.core 5 (fresh [.issue 0x0000#16] [] [])) = some .idle := by
  decide
theorem witness_CountersStayBounded :
    smallParams.legal = true ∧
      seen (·.cnt) (Host.Core.run Sys2Proof.core 3 (ready [.issue 0x1000#16] [true] [])) = some 1 := by
  decide
theorem witness_StepRunsDecodedCommand :
    (fresh [.issue 0x0000#16] [] []).phase = .idle ∧ (fresh [.issue 0x0000#16] [] []).fault = none ∧
      (fresh [.issue 0x0000#16] [] []).host = .issue 0x0000#16 :: [] ∧ decode 0x0000#16 = some .init ∧
      (busyAt .start (.recovery .enter) [] []).quiet = true ∧
      (busyAt .start (.recovery .enter) [] []).phase = .busy .start (.recovery .enter) ∧
      ({ busyAt .start (.line 0) [] [] with host := [.hold] } : State).host = .hold :: [] := by decide
theorem witness_IdleBlockWaits :
    (fresh [] [] []).phase = .idle ∧ (fresh [] [] []).fault = none ∧ (fresh [] [] []).host = [] ∧
      (fresh [.hold] [] []).host = .hold :: [] := by decide
theorem witness_LegalCommandAccepted :
    (Instr.write 0xFF#8).wellFormed = true ∧ (ready [] [] []).phase = .idle ∧
      (ready [] [] []).fault = none ∧ (ready [] [] []).on = true ∧
      (fresh [] [] []).on = false ∧ needsInit (.bcdenc 0#8) = false := by decide
theorem witness_BusCommandBeforeInitFaults :
    (fresh [] [] []).phase = .idle ∧ (fresh [] [] []).fault = none ∧ (fresh [] [] []).on = false := by decide
theorem witness_IllegalWordFaults :
    illegalWord 0x9000#16 = true ∧ illegalWord 0xC000#16 = true ∧ illegalWord 0x0200#16 = true ∧
      illegalWord 0x7100#16 = true ∧ illegalWord 0x8001#16 = true ∧ illegalWord 0xBFFF#16 = true ∧
      illegalWord 0xB0FF#16 = false ∧ (fresh [.issue 0x9000#16] [] []).phase = .idle ∧
      (fresh [.issue 0x9000#16] [] []).host = .issue 0x9000#16 :: [] := by decide
theorem witness_OverlappingOfferFaults :
    ({ busyAt .stop (.more 1) [] [] with host := [.offer 0xFFFF#16] } : State).phase =
        .busy .stop (.more 1) ∧
      ({ busyAt .stop (.more 1) [] [] with host := [.offer 0xFFFF#16] } : State).fault = none ∧
      ({ busyAt .stop (.more 1) [] [] with host := [.offer 0xFFFF#16] } : State).host =
        .offer 0xFFFF#16 :: [] := by decide
theorem witness_FaultPriority :
    (fresh [.offer 0x1000#16] [] []).host = .offer 0x1000#16 :: [] ∧
      (fresh [.offer 0x1000#16] [] []).phase ≠ .faulted ∧ (fresh [.offer 0x1000#16] [] []).fault = none ∧
      busWord 0x1000#16 = true ∧ busWord 0x8100#16 = true ∧ busWord 0x0000#16 = false ∧
      busWord 0xA000#16 = false ∧ ((fresh [.offer 0#16] [] []).raise .busy).phase = .faulted := by decide
theorem witness_FaultsAreSticky :
    ((fresh [] [] []).raise .notInit).fault ≠ none ∧ ((fresh [] [] []).raise .notInit).host = [] ∧
      ((fresh [.reset] [] []).raise .notInit).host = .reset :: [] := by decide
theorem witness_PollUpdatesCopies :
    (ready [] [false] []).env.bits = false :: [] ∧ (ready [] [] []).env.bits = [] ∧
      (ready [] [] []).env.cycle = [] ∧ (retrying [] [0x1000#16] 0).env.bits = [] ∧
      (retrying [] [0x1000#16] 0).env.cycle ≠ [] := by decide
theorem witness_TransfersHaveDataWidth :
    8 ≤ smallParams.dataWidth ∧ ({ smallParams with dataWidth := 4 } : Params).dataWidth < 8 := by decide
theorem witness_AccessWidths :
    (busyAt (.write 0xDE#8) (.line 1) [] []).phaseFits = true ∧
      seen (·.ev) (step (busyAt (.write 0xDE#8) (.line 1) [] [])) = some ([] ++ [.wr (.trn 0xDE#8)]) ∧
      (busyAt (.read true) (.line 2) [] [0x23#8]).phaseFits = true ∧
      seen (·.ev) (step (busyAt (.read true) (.line 2) [] [0x23#8])) = some ([] ++ [.rd 0x23#8]) ∧
      (busyAt .init (.line 0) [] []).phaseFits = true ∧
      seen (·.ev) (step (busyAt .init (.line 1) [] [])) = some ([] ++ [.wr (.cfgMode ⟨16, 6#16⟩)]) := by
  decide
/-- One witness for each clause: the next word, the end, the retry, and an attempt of no words. -/
theorem witness_HostRunsAttempt :
    ([(([] : List Word), [0x1000#16]), ([0x1000#16], [0x2000#16]), ([0x1000#16], []), ([], [])].all
        fun d =>
          (retrying d.1 d.2 0).phase == .idle && (retrying d.1 d.2 0).fault == none &&
            (retrying d.1 d.2 0).host == [.attempt d.1 d.2 0]) = true ∧
      (retrying [0x1000#16] [] 0).resp = some ⟨0b010#3, 0#8⟩ ∧ 0#3 ||| 0b010#3 ≠ 0b001#3 ∧
      ({ retrying [0x1000#16] [] 0 with resp := some ⟨0b001#3, 0#8⟩ } : State).resp =
        some ⟨0b001#3, 0#8⟩ := by decide
theorem witness_StuckBusNeverLeavesAttempt :
    (retrying [] [0xA02D#16, 0x1000#16] 0).phase = .idle ∧
      (retrying [] [0xA02D#16, 0x1000#16] 0).fault = none ∧ (retrying [] [0xA02D#16, 0x1000#16] 0).on = true ∧
      (retrying [] [0xA02D#16, 0x1000#16] 0).host = .attempt [] [0xA02D#16, 0x1000#16] 0b000#3 :: [] ∧
      (decode 0xA02D#16 = some (.bcdenc 45#8) ∧ inDomain (.bcdenc 45#8) = true) ∧
      (decode 0x1000#16 = some .start ∧ inDomain .start = true) ∧ busWord 0x1000#16 = true ∧
      (retrying [] [0xA02D#16, 0x1000#16] 0).env.bits = [] ∧
      (retrying [] [0xA02D#16, 0x1000#16] 0).env.cycle = [true] := by decide
/-- The attempt and the state of the witness before it, with what this statement asks beside. -/
theorem witness_StuckBusRetriesForever :
    (retrying [] [0xA02D#16, 0x1000#16] 0).params.legal = true ∧
      (retrying [] [0xA02D#16, 0x1000#16] 0).params.nestedRecovery = false ∧
      (retrying [] [0xA02D#16, 0x1000#16] 0).phase = .idle ∧
      (retrying [] [0xA02D#16, 0x1000#16] 0).fault = none ∧ (retrying [] [0xA02D#16, 0x1000#16] 0).on = true ∧
      (retrying [] [0xA02D#16, 0x1000#16] 0).host = .attempt [] (0xA02D#16 :: [0x1000#16]) 0b000#3 :: [] ∧
      ((decode 0xA02D#16).all inDomain && (decode 0x1000#16).all inDomain) = true ∧
      (decode 0xA02D#16).isSome = true ∧ (decode 0x1000#16).isSome = true ∧ busWord 0x1000#16 = true ∧
      (retrying [] [0xA02D#16, 0x1000#16] 0).env.bits = [] ∧
      (retrying [] [0xA02D#16, 0x1000#16] 0).env.cycle = [true] := by decide
theorem witness_InitSteps : meetsSteps .init [] [] [.line 0, .line 1, .line 2, .line 3] = true := by decide
theorem witness_StartSteps : meetsSteps .start [] [] [.line 0, .line 1, .more 1, .line 2] = true := by decide
theorem witness_StopSteps : meetsSteps .stop [] [] [.line 0, .line 1, .more 1, .line 2] = true := by decide
theorem witness_RestartSteps :
    meetsSteps .restart [] [] [.line 0, .line 1, .more 1, .line 2] = true := by decide
theorem witness_WaitidleSteps :
    meetsSteps .waitidle [] [] [.line 0, .more 0, .line 1] = true := by decide
theorem witness_AckSteps :
    meetsSteps .ack [] [] [.line 0, .line 1, .line 2, .more 2, .line 3] = true := by decide
theorem witness_NackSteps :
    meetsSteps .nack [] [] [.line 0, .line 1, .line 2, .more 2, .line 3] = true := by decide
theorem witness_WriteSteps :
    meetsSteps (.write 0xFF#8) [] []
      [.line 0, .more 0, .line 1, .line 2, .more 2, .line 3, .more 3, .line 4] = true := by decide
theorem witness_ReadSteps :
    meetsSteps (.read true) [] [0xC5#8]
        [.line 0, .line 1, .more 1, .line 2, .line 3, .line 4, .line 5, .more 5, .line 6] = true ∧
      (busyAt (.read true) (.line 2) [] [0xC5#8]).env.bytes = 0xC5#8 :: [] ∧
      (busyAt (.read false) (.line 2) [] []).env.bytes = [] := by decide
theorem witness_BusFaultResponse :
    Instr.start.wellFormed = true ∧ meetsSteps .start [] [] [.busFault] = true := by decide
theorem witness_RecoverSteps :
    meetsSteps .start [true] []
        ([RecStep.enter, .disable, .reinitTiming, .reinitMode, .reinitOn, .takeOwner, .takeSda, .takeScl,
          .lowWrite, .lowDelay, .highWrite, .highDelay, .sample, .release, .restartWrite, .restartPoll,
          .restartMore, .stopWrite, .stopPoll, .stopMore, .exit].map .recovery) = true ∧
      (busyAt .start (.recovery .sample) [true] []).env.bits = true :: [] ∧
      (busyAt .start (.recovery .sample) [] []).env.bits = [] ∧
      (busyAt .start (.recovery .sample) [] []).env.cycle = [] ∧
      ({ busyAt .start (.recovery .sample) [] [] with env := ⟨[], [], 0, [true]⟩ } : State).env.cycle ≠ [] := by
  decide
theorem witness_BcdencSteps :
    meetsSteps (.bcdenc 99#8) [] [] [.line 0] = true ∧ meetsSteps (.bcdenc 100#8) [] [] [.line 0] = true ∧
      (99#8).toNat ≤ 99 ∧ 99 < (100#8).toNat := by decide
theorem witness_BcddecSteps :
    meetsSteps (.bcddec 0x99#8) [] [] [.line 0] = true ∧
      ((0x99#8).toNat / 16 ≤ 9 ∧ (0x99#8).toNat % 16 ≤ 9) ∧ 9 < (0xA0#8).toNat / 16 ∧
      9 < (0x0A#8).toNat % 16 := by decide
theorem witness_InitRun :
    (fresh [.issue 0x0000#16, .issue 0x1000#16] [] []).host = .issue 0x0000#16 :: [.issue 0x1000#16] ∧
      (fresh [.issue 0x1000#16] [] []).quiet = true ∧ (fresh [] [] []).phase = .idle ∧
      (fresh [] [] []).fault = none := by decide
/-- An idle block with ON 1, its next move the word `w`, and answers that begin with `bits`. -/
def meetsRun (w : Word) (bits : List Bit) (s : State) : Bool :=
  decide (s.phase = .idle) && s.fault.isNone && s.on && decide (s.host = [.issue w]) &&
    ({ s with host := [] } : State).quiet && decide (s.env.bits = bits ++ [true])
/-- The last poll within the budget: `k = TIMEOUT - 1`. -/
theorem witness_ConditionRuns :
    2 < smallParams.timeout ∧
      ([0x1000#16, 0x2000#16, 0x3000#16, 0x4000#16].all fun w =>
        meetsRun w (waitBits false 2) (ready [.issue w] (waitBits false 2 ++ [true]) [])) = true := by
  decide
theorem witness_AcknowledgeRuns :
    0 < smallParams.timeout ∧
      ([false, true].all fun nack =>
        meetsRun (if nack then 0x6000#16 else 0x5000#16) (waitBits false 0)
          (ready [.issue (if nack then 0x6000#16 else 0x5000#16)] (waitBits false 0 ++ [true]) [])) =
        true := by decide
theorem witness_WriteRun :
    (2 < smallParams.timeout ∧ 0 < smallParams.timeout ∧ 1 < smallParams.timeout) ∧
      meetsRun (0x7000#16 ||| (0xFF#8).setWidth 16)
        (waitBits false 2 ++ waitBits false 0 ++ waitBits false 1)
        (ready [.issue 0x70FF#16]
          (waitBits false 2 ++ waitBits false 0 ++ waitBits false 1 ++ [true]) []) = true := by decide
theorem witness_ReadRun :
    (1 < smallParams.timeout ∧ 0 < smallParams.timeout) ∧
      ([false, true].all fun l =>
        meetsRun (if l then 0x8100#16 else 0x8000#16) (waitBits true 1 ++ waitBits false 0)
          (ready [.issue (if l then 0x8100#16 else 0x8000#16)]
            (waitBits true 1 ++ waitBits false 0 ++ [true]) [0x23#8])) = true ∧
      (ready [.issue 0x8100#16] (waitBits true 1 ++ waitBits false 0 ++ [true]) [0x23#8]).env.bytes =
        0x23#8 :: [] := by decide
theorem witness_GuardedWaitPolls :
    waitOf (.read false) 1 = some (.rbf, true) ∧ smallParams.legal = true ∧
      meetsSteps (.read false) [false, false, true] [] [.line 1] = true ∧
      (busyAt (.read false) (.line 1) [false, false, true] []).quiet = true ∧ 2 < smallParams.timeout ∧
      (busyAt (.read false) (.line 1) [false, false, true] []).env.bits = waitBits true 2 ++ [] ∧
      meetsSteps (.read false) [false, false, false] [] [.line 1] = true ∧
      (busyAt (.read false) (.line 1) [false, false, false] []).env.bits =
        List.replicate smallParams.timeout (!true) ++ [] := by decide
theorem witness_RecoveryRun :
    meetsSteps .start [] [] [.recovery .enter] = true ∧
      (busyAt .start (.recovery .enter) [] []).quiet = true ∧
      (busyAt .start (.recovery .enter) [] []).params.legal = true ∧
      (busyAt .start (.recovery .enter) [] []).params.nestedRecovery = false := by decide
/-- A block at the last poll of an epilogue wait, with NESTED_RECOVERY. -/
def nestedAt (r : RecStep) : State :=
  { busyAt .start (.recovery r) [true] [] with params := nestedParams, cnt := 2 }
theorem witness_NestedTimeoutReenters :
    (nestedAt .restartMore).params.nestedRecovery = true ∧ (nestedAt .restartMore).fault = none ∧
      (nestedAt .restartMore).env.bits = true :: [] ∧
      (nestedAt .restartMore).cnt + 1 = (nestedAt .restartMore).params.timeout ∧
      (nestedAt .restartMore).phase = .busy .start (.recovery .restartMore) ∧
      (nestedAt .stopMore).phase = .busy .start (.recovery .stopMore) ∧
      (nestedAt .stopMore).cnt + 1 = (nestedAt .stopMore).params.timeout := by decide
theorem witness_NestedRecoveryUnbounded :
    (nestedAt .enter).phase = .busy .start (.recovery .enter) ∧ (nestedAt .enter).fault = none ∧
      (nestedAt .enter).quiet = true ∧ (nestedAt .enter).params.legal = true ∧
      (nestedAt .enter).params.nestedRecovery = true := by decide
theorem witness_CommandCompletes :
    inDomain .start = true ∧ Instr.start.wellFormed = true ∧
      (ready [.issue 0x1000#16] [] []).host = .issue (encode .start) :: [] ∧
      (ready [.issue 0x1000#16] [] []).phase = .idle ∧ (ready [.issue 0x1000#16] [] []).fault = none ∧
      (ready [.issue 0x1000#16] [] []).params.legal = true ∧
      (ready [.issue 0x1000#16] [] []).params.nestedRecovery = false ∧
      (ready [.issue 0x1000#16] [] []).on = true ∧
      (ready [.issue 0x1000#16] [] []).pinOwner = .periph ∧ (ready [] [] []).quiet = true ∧
      inDomain (.bcdenc 99#8) = true ∧ inDomain (.bcddec 0x99#8) = true := by decide
theorem witness_RecoveryNeverFails :
    meetsSteps .start [] [] [.recovery .exit] = true ∧
      (busyAt .start (.recovery .exit) [] []).host = [] := by decide
theorem witness_WhoWritesWhat :
    (busyAt .init (.line 2) [] []).phaseFits = true ∧
      seen (·.on) (exec .init (busyAt .init (.line 2) [] [])) = some true := by decide
theorem witness_LogGrowsByOneEvent :
    (busyAt .start (.line 0) [] []).host = [] ∧
      seen (·.ev) (step (busyAt .start (.line 0) [] [])) = some [.wr (.sen true)] := by decide
theorem witness_StatusesProduced :
    (busyAt .start .busFault [] []).phaseFits = true ∧ (busyAt .start .busFault [] []).fault = none ∧
      seen (·.phase) (step (busyAt .start .busFault [] [])) = some .idle ∧
      (busyAt (.bcdenc 100#8) (.line 0) [] []).phaseFits = true ∧
      seen (·.phase) (step (busyAt (.bcdenc 100#8) (.line 0) [] [])) = some .faulted := by decide
theorem witness_CodecRoundTrip :
    meetsSteps (.bcdenc 99#8) [] [] [.line 0] = true ∧ (99#8).toNat ≤ 99 ∧
      meetsSteps (.bcddec 0x99#8) [] [] [.line 0] = true := by decide
theorem witness_ControlBitsStrip :
    (validBcd 0x59#8 = true ∧ bcdValue 0x59#8 ≤ 59) ∧ (validBcd 0x23#8 = true ∧ bcdValue 0x23#8 ≤ 23) ∧
      (validBcd 0x12#8 = true ∧ bcdValue 0x12#8 ≤ 12) ∧
      ([SlaveReg.seconds, .hours, .month].all fun r => HostParams.notAdopted.reservedBits r == 0#8) = true ∧
      aHost.reservedBits .weekday &&& 0x06#8 = 0#8 ∧ aHost.weekdayBit = some 7 ∧
      (0x06#8).getLsbD 7 = false ∧ HostParams.notAdopted.weekdayBit = none := by decide

end Sys2Proof.Tests
end

section
namespace Sys2Proof.Machine

/-! ### The commands' pseudocode as data -/

/-- The pseudocode lines of a command, up to its last line. -/
def linesOf : Instr → List Action
  | .init => [cfgTimingLine, cfgModeLine, writeLine (.on true)]
  | .start => [writeLine (.sen true), waitLine .sen false]
  | .stop => [writeLine (.pen true), waitLine .pen false]
  | .restart => [writeLine (.rsen true), waitLine .rsen false]
  | .waitidle => [waitLine .trstat false]
  | .ack => ackSeq false
  | .nack => ackSeq true
  | .write b => [waitLine .trstat false, trnLine b, waitLine .tbf false, waitLine .trstat false]
  | .read last => [writeLine (.rcen true), waitLine .rbf true, readRcvLine] ++ ackSeq (ackValue last)
  | .recover => []
  | .bcdenc _ => []
  | .bcddec _ => []

/-- The last line of a command's pseudocode. -/
def lastOf : Instr → Action
  | .read _ => respondRxdLine
  | .bcdenc n => bcdencLine n
  | .bcddec b => bcddecLine b
  | _ => respondLine

/-- The step of a block that is busy with `op` at stage `st`. -/
def busyStep (op : Instr) (st : Stage) (s : State) : State := stageStep op (linesOf op) (lastOf op) st s

/-- What a line of a command writes to the peripheral, if it is a register write. -/
def writeOf (p : Params) : Instr → Nat → Option RegWr
  | .init, 0 => some (.cfgTiming p.cfgTiming)
  | .init, 1 => some (.cfgMode p.cfgMode)
  | .init, 2 => some (.on true)
  | .start, 0 => some (.sen true)
  | .stop, 0 => some (.pen true)
  | .restart, 0 => some (.rsen true)
  | .ack, 0 => some (.ackdt false)
  | .ack, 1 => some (.acken true)
  | .nack, 0 => some (.ackdt true)
  | .nack, 1 => some (.acken true)
  | .write b, 1 => some (.trn (busByte p b))
  | .read _, 0 => some (.rcen true)
  | .read l, 3 => some (.ackdt l)
  | .read _, 4 => some (.acken true)
  | _, _ => none

@[simp] theorem ackValue_eq (l : Bit) : ackValue l = l := by cases l <;> rfl

/-- The meaning of a command the host may issue is `command` on its pseudocode. -/
theorem exec_eq_command {i : Instr} (hi : i.wellFormed = true) (s : State) :
    exec i s = command i (linesOf i) (lastOf i) s := by
  cases i with
  | recover => cases hi
  | _ => rfl

/-- The step of a busy block at a line of its command's pseudocode, or at a later poll of the line. -/
inductive LineStep (op : Instr) (n : Nat) (first : Bool) (s : State) : State → Prop
  | write (w : RegWr) (hw : writeOf s.params op n = some w) (hn : n < lastLine op) :
      LineStep op n first s ((s.regWrite w).goTo op (.line (n + 1)))
  | wait (p : Flag) (want : Bit) (hw : waitOf op n = some (p, want)) :
      LineStep op n first s (waitLine p want op n first s)
  | read (l : Bit) (hop : op = .read l) (hn : n = 2) :
      LineStep op n first s (s.readRcv.goTo op (.line (n + 1)))
  | respond (d : Byte) (hn : lastLine op ≤ n) : LineStep op n first s (s.respond statusSuccess d)
  | domain (hn : lastLine op ≤ n) (hd : inDomain op = false) : LineStep op n first s (s.raise .bcdDomain)

theorem lineStep_of_wellFormed {op : Instr} (hop : op.wellFormed = true) (n : Nat) (first : Bool) (s : State) :
    LineStep op n first s ((linesOf op).getD n (lastOf op) op n first s) := by
  cases op with
  | recover => cases hop
  | init =>
    rcases n with _ | _ | _ | n
    · exact .write _ rfl (by decide)
    · exact .write _ rfl (by decide)
    · exact .write _ rfl (by decide)
    · exact .respond _ (by simp [lastLine])
  | start | stop | restart =>
    rcases n with _ | _ | n
    · exact .write _ rfl (by decide)
    · exact .wait _ _ rfl
    · exact .respond _ (by simp [lastLine])
  | waitidle =>
    rcases n with _ | n
    · exact .wait _ _ rfl
    · exact .respond _ (by simp [lastLine])
  | ack | nack =>
    rcases n with _ | _ | _ | n
    · exact .write _ rfl (by decide)
    · exact .write _ rfl (by decide)
    · exact .wait _ _ rfl
    · exact .respond _ (by simp [lastLine])
  | write b =>
    rcases n with _ | _ | _ | _ | n
    · exact .wait _ _ rfl
    · exact .write _ rfl (by simp [lastLine])
    · exact .wait _ _ rfl
    · exact .wait _ _ rfl
    · exact .respond _ (by simp [lastLine])
  | read l =>
    rcases n with _ | _ | _ | _ | _ | _ | n
    · exact .write _ rfl (by simp [lastLine])
    · exact .wait _ _ rfl
    · exact .read l rfl rfl
    · exact .write _ (by simp [writeOf]) (by simp [lastLine])
    · exact .write _ rfl (by simp [lastLine])
    · exact .wait _ _ rfl
    · exact .respond _ (by simp [lastLine])
  | bcdenc k =>
    cases hd : inBcdDomain (intOperand k) with
    | true => simpa [linesOf, lastOf, bcdencLine, hd] using .respond _ (Nat.zero_le n)
    | false => simpa [linesOf, lastOf, bcdencLine, hd] using .domain (Nat.zero_le n) hd
  | bcddec b =>
    cases hd : validBcd b with
    | true => simpa [linesOf, lastOf, bcddecLine, hd] using .respond _ (Nat.zero_le n)
    | false => simpa [linesOf, lastOf, bcddecLine, hd] using .domain (Nat.zero_le n) hd

/-! ### Everything a step can do -/

/-- Everything the step of a busy block can do. -/
inductive BusyStep (op : Instr) (s : State) : Stage → State → Prop
  | line {n : Nat} {t : State} (h : LineStep op n true s t) : BusyStep op s (.line n) t
  | more {n : Nat} {t : State} (h : LineStep op n false s t) : BusyStep op s (.more n) t
  | recovery (r : RecStep) : BusyStep op s (.recovery r) (recoverStep op r s)
  | busFault : BusyStep op s .busFault s.respondBusFault

theorem busyStep_of_wellFormed {op : Instr} {st : Stage} (hop : op.wellFormed = true ∨ ∃ r, st = .recovery r)
    (s : State) : BusyStep op s st (busyStep op st s) := by
  cases st with
  | recovery r => exact .recovery r
  | busFault => exact .busFault
  | line n => exact .line (lineStep_of_wellFormed (by simpa using hop) n true s)
  | more n => exact .more (lineStep_of_wellFormed (by simpa using hop) n false s)

/-- Everything a command's meaning can do, if it answers a next state. -/
inductive ExecStep (s : State) : State → Prop
  | raises (c : FaultCode) : ExecStep s (s.raise c)
  | accepts (i : Instr) (hi : i.wellFormed = true) (hp : s.phase = .idle) (hf : s.fault = none)
      (hon : needsInit i = true → s.on = true) : ExecStep s (s.goTo i (.line 0))
  | runs {op : Instr} {st : Stage} {t : State} (hp : s.phase = .busy op st) (hf : s.fault = none)
      (h : BusyStep op s st t) : ExecStep s t

theorem exec_cases {i : Instr} {s t : State} (h : exec i s = .next t) : ExecStep s t := by
  by_cases hi : i.wellFormed = true
  · rw [exec_eq_command hi] at h
    obtain ⟨hf, ⟨hp, rfl⟩ | ⟨st, hp, rfl⟩ | ⟨op, st, hp, -, rfl⟩⟩ := command_cases h
    · obtain ⟨-, -, ht⟩ | ⟨hon, ht⟩ := s.accept_cases i
      · exact ht ▸ .raises _
      · exact ht ▸ .accepts i hi hp hf (by rintro h; simpa [h] using hon)
    · exact .runs hp hf (busyStep_of_wellFormed (.inl hi) s)
    · exact .raises _
  · cases i with
    | recover =>
      obtain ⟨hf, ⟨op, r, hp, rfl⟩ | ⟨op, st, -, -, rfl⟩ | ⟨-, rfl⟩⟩ := execRecover_cases h
      · exact .runs hp hf (.recovery r)
      · exact .raises _
      · exact .raises _
    | _ => exact absurd rfl hi

theorem offered_cases (w : Word) (s : State) :
    offered w s = .done (s.raise .illegalCmd) ∨ ∃ i, offered w s = .run i s := by
  unfold offered
  cases decode w <;> simp

/-- Everything a step of the machine can do, if it answers a next state; `hs` are the host's moves after it. -/
inductive MachineStep (s : State) : State → Prop
  | reset (rest : List HostMove) (hh : s.host = .reset :: rest) :
      MachineStep s (State.afterReset s.params rest s.env)
  | waits (hs : List HostMove) : MachineStep s { s with host := hs }
  | acts (hs : List HostMove) {t : State} (h : ExecStep { s with host := hs } t) : MachineStep s t

theorem machineStep_of_offered {s t : State} {w : Word} {hs : List HostMove}
    (hturn : turn s = offered w { s with host := hs }) (h : step s = .next t) : MachineStep s t := by
  unfold step at h
  rw [hturn] at h
  obtain ho | ⟨i, ho⟩ := offered_cases w { s with host := hs } <;> rw [ho] at h
  · cases h; exact .acts hs (.raises _)
  · exact .acts hs (exec_cases h)

theorem machineStep_of_done {s t u : State} (hturn : turn s = .done u) (hu : MachineStep s u)
    (h : step s = .next t) : MachineStep s t := by
  unfold step at h
  rw [hturn] at h
  cases h
  exact hu

theorem machineStep_of_run {s t : State} {i : Instr} {hs : List HostMove}
    (hturn : turn s = .run i { s with host := hs }) (h : step s = .next t) : MachineStep s t := by
  unfold step at h
  rw [hturn] at h
  exact .acts hs (exec_cases h)

theorem machineStep_of_step {s t : State} (h : step s = .next t) : MachineStep s t := by
  obtain ⟨-, ht⟩ | ⟨rest, hh, -, ht⟩ | ⟨-, -, hidle⟩ | ⟨-, op, st, -, hbusy⟩ := turn_cases s
  · simp [step, ht] at h
  · exact machineStep_of_done ht (.reset rest hh) h
  · obtain ⟨-, ht⟩ | ⟨rest, -, ht⟩ | ⟨w, rest, -, ⟨-, ht⟩ | ⟨i, -, ht⟩⟩ |
      ⟨done, left, acc, rest, -, ht⟩ := hidle
    · exact machineStep_of_done ht (.waits s.host) h
    · exact machineStep_of_done ht (.waits rest) h
    · exact machineStep_of_done ht (.acts rest (.raises _)) h
    · exact machineStep_of_run ht h
    · obtain ⟨w, ws, -, ha⟩ | ⟨-, -, ha⟩ | ⟨-, -, -, ha⟩ | ⟨w, ws, -, -, -, ha⟩ :=
        attemptTurn_cases done left acc rest s
      · exact machineStep_of_offered (ht.trans ha) h
      · exact machineStep_of_done (ht.trans ha) (.waits s.host) h
      · exact machineStep_of_done (ht.trans ha) (.waits rest) h
      · exact machineStep_of_offered (ht.trans ha) h
  · obtain ⟨w, rest, -, ht⟩ | ⟨rest, -, ht⟩ | ⟨-, -, ht⟩ := hbusy
    · exact machineStep_of_done ht (.acts rest (.raises _)) h
    · exact machineStep_of_run ht h
    · exact machineStep_of_run (hs := s.host) ht h

end Sys2Proof.Machine
end

section
namespace Sys2Proof.Machine

/-! ### The invariant, split into the part the phase decides and the bounds -/

/-- Another poll of the wait, or another pulse, is due only where the counter leaves room for it (R23, R24). -/
def State.dueFits (s : State) : Bool :=
  match s.phase with
  | .busy _ (.more _) => decide (s.cnt < s.params.timeout)
  | .busy _ (.recovery .restartMore) => decide (s.cnt < s.params.timeout)
  | .busy _ (.recovery .stopMore) => decide (s.cnt < s.params.timeout)
  | .busy _ (.recovery .sample) => decide (s.pcnt ≤ s.params.recoveryCap)
  | .busy _ (.recovery r) => !r.beforePulse || decide (s.pcnt < s.params.recoveryCap)
  | _ => true

/-- The part of the invariant that a command establishes by itself, whatever the counters and the configuration
held before it. -/
def State.onCourse (s : State) : Bool :=
  s.phaseFits && s.ownerFits && s.onFits && s.dirsFit && s.dueFits

/-- The part of the invariant that speaks of no phase: the counters' bounds and the widths (R23, R24, R31). -/
def State.inBounds (s : State) : Bool :=
  decide (s.cnt ≤ s.params.timeout) && decide (s.pcnt ≤ s.params.recoveryCap) && s.widthsFit

theorem State.counters_fit_iff (s : State) :
    (s.cntFits = true ∧ s.pcntFits = true) ↔
      s.dueFits = true ∧ s.cnt ≤ s.params.timeout ∧ s.pcnt ≤ s.params.recoveryCap := by
  rcases hp : s.phase with _ | ⟨op, n | n | r | _⟩ | _
  case busy.recovery =>
    cases r <;> simp [State.cntFits, State.pcntFits, State.dueFits, hp, RecStep.beforePulse] <;> omega
  all_goals simp [State.cntFits, State.pcntFits, State.dueFits, hp] <;> omega

theorem State.inv_iff (s : State) :
    s.inv = true ↔
      s.params.legal = true ∧ s.faultFits = true ∧ s.onCourse = true ∧ s.inBounds = true := by
  have h := s.counters_fit_iff
  simp only [State.inv, State.onCourse, State.inBounds, Bool.and_eq_true, decide_eq_true_eq]
  tauto

theorem Params.legal_iff (p : Params) : p.legal = true ↔ 0 < p.timeout ∧ 0 < p.recoveryCap := by
  simp [Params.legal, Nat.succ_le_iff]

section
variable {s : State} {op : Instr}

theorem State.onCourse_idle (hp : s.phase = .idle) : s.onCourse = true ↔ s.pinOwner = .periph := by
  simp [State.onCourse, State.phaseFits, State.ownerFits, State.onFits, State.dirsFit, State.dueFits, hp]

theorem State.onCourse_faulted (hp : s.phase = .faulted) : s.onCourse = true := by
  simp [State.onCourse, State.phaseFits, State.ownerFits, State.onFits, State.dirsFit, State.dueFits, hp]

theorem State.onCourse_line {n : Nat} (hp : s.phase = .busy op (.line n)) :
    s.onCourse = true ↔
      op.wellFormed = true ∧ n ≤ lastLine op ∧ s.pinOwner = .periph ∧ (needsInit op = true → s.on = true) := by
  cases h : needsInit op <;>
    simp [State.onCourse, State.phaseFits, State.ownerFits, State.onFits, State.dirsFit, State.dueFits, stageOf,
      hp, h] <;> tauto

theorem State.onCourse_more {n : Nat} (hp : s.phase = .busy op (.more n)) :
    s.onCourse = true ↔
      op.wellFormed = true ∧ (waitOf op n).isSome = true ∧ s.pinOwner = .periph ∧
        (needsInit op = true → s.on = true) ∧ s.cnt < s.params.timeout := by
  cases h : needsInit op <;>
    simp [State.onCourse, State.phaseFits, State.ownerFits, State.onFits, State.dirsFit, State.dueFits, stageOf,
      hp, h] <;> tauto

theorem State.onCourse_busFault (hp : s.phase = .busy op .busFault) :
    s.onCourse = true ↔
      op.wellFormed = true ∧ needsInit op = true ∧ s.pinOwner = .periph ∧ s.on = true := by
  cases h : needsInit op <;>
    simp [State.onCourse, State.phaseFits, State.ownerFits, State.onFits, State.dirsFit, State.dueFits, stageOf,
      hp, h]; tauto

theorem State.onCourse_recovery {r : RecStep} (hp : s.phase = .busy op (.recovery r)) :
    s.onCourse = true ↔
      (op.wellFormed = true ∧ needsInit op = true) ∧
        s.pinOwner = (if r.ownsPins then .manual else .periph) ∧ s.on = !r.peripheralOff ∧
        (r = .takeScl ∨ r.pulsing = true → s.sdaDir = .input) ∧ (r.pulsing = true → s.sclDir = .output) ∧
        (r = .restartMore ∨ r = .stopMore → s.cnt < s.params.timeout) ∧
        (r = .sample → s.pcnt ≤ s.params.recoveryCap) ∧
        (r.beforePulse = true → s.pcnt < s.params.recoveryCap) := by
  cases r <;>
    simp [State.onCourse, State.phaseFits, State.ownerFits, State.onFits, State.dirsFit, State.dueFits, stageOf, hp,
      RecStep.ownsPins, RecStep.peripheralOff, RecStep.pulsing, RecStep.beforePulse, and_assoc]

/-! ### Every step of a busy block keeps its course -/

/-- At the stages a poll of the epilogue leads to, the lines are the peripheral's and it is enabled (R173, R176). -/
theorem State.onCourse_afterEpiloguePoll {r : RecStep}
    (hr : r = .enter ∨ r = .restartMore ∨ r = .stopMore ∨ r = .stopWrite ∨ r = .exit)
    (hp : s.phase = .busy op (.recovery r)) :
    s.onCourse = true ↔
      (op.wellFormed = true ∧ needsInit op = true) ∧ s.pinOwner = .periph ∧ s.on = true ∧
        (r = .restartMore ∨ r = .stopMore → s.cnt < s.params.timeout) := by
  rw [State.onCourse_recovery hp]
  rcases hr with rfl | rfl | rfl | rfl | rfl <;>
    simp [RecStep.ownsPins, RecStep.peripheralOff, RecStep.pulsing, RecStep.beforePulse]

theorem onCourse_epiloguePoll {p : Flag} {first : Bool} {more next : RecStep}
    (hop : op.wellFormed = true ∧ needsInit op = true) (hown : s.pinOwner = .periph) (hon : s.on = true)
    (hdue : (if first then 0 else s.cnt) < s.params.timeout)
    (hmore : more = .restartMore ∨ more = .stopMore) (hnext : next = .stopWrite ∨ next = .exit) :
    (s.epiloguePoll op p first more next).onCourse = true := by
  rw [State.epiloguePoll_eq, State.onCourse_afterEpiloguePoll (by split_ifs <;> tauto) rfl]
  refine ⟨hop, by simp [hown], by simp [hon], ?_⟩
  generalize (if first then 0 else s.cnt) = c at hdue ⊢
  have : next ≠ .restartMore ∧ next ≠ .stopMore := by rcases hnext with rfl | rfl <;> simp
  split_ifs with hbit hlast hnest <;> simp_all
  omega

theorem onCourse_recSample (hs : s.onCourse = true) (hp : s.phase = .busy op (.recovery .sample)) :
    (s.recSample op).onCourse = true := by
  rw [State.onCourse_recovery hp] at hs
  rw [State.recSample_eq]
  split_ifs with hend <;> rw [State.onCourse_recovery rfl] <;>
    simp_all [RecStep.ownsPins, RecStep.peripheralOff, RecStep.pulsing, RecStep.beforePulse]
  omega

theorem onCourse_recoverStep {r : RecStep} (hl : s.params.legal = true) (hs : s.onCourse = true)
    (hp : s.phase = .busy op (.recovery r)) : (recoverStep op r s).onCourse = true := by
  rw [Params.legal_iff] at hl
  have hs' := hs
  rw [State.onCourse_recovery hp] at hs
  obtain ⟨hop, hown, hon, hsda, hscl, hcnt, hsample, hpulse⟩ := hs
  cases r
  case sample => exact onCourse_recSample hs' hp
  case restartPoll | restartMore | stopPoll | stopMore =>
    exact onCourse_epiloguePoll hop hown hon (by simp_all) (by simp) (by simp)
  case exit => rw [State.onCourse_busFault rfl]; exact ⟨hop.1, hop.2, hown, hon⟩
  all_goals
    rw [State.onCourse_recovery rfl]
    simp_all [recoverStep, State.pinDir_sda, State.pinDir_scl, State.regWrite_on_zero, State.regWrite_on_one,
      State.regWrite_cfgTiming, State.regWrite_cfgMode, State.regWrite_rsen, State.regWrite_pen, RecStep.ownsPins,
      RecStep.peripheralOff, RecStep.pulsing, RecStep.beforePulse]

/-- A guarded wait is a line before the last, and of a bus command (R201). -/
theorem waitOf_inside {n : Nat} {w : Flag × Bit} (h : waitOf op n = some w) :
    n < lastLine op ∧ needsInit op = true := by
  unfold waitOf at h
  split at h <;> simp_all [lastLine, needsInit]

theorem State.regWrite_on_of_enabled {w : RegWr} (hon : s.on = true) (hw : w ≠ .on false) :
    (s.regWrite w).on = true := by
  rcases w with _ | _ | b | _ | _ | _ | _ | _ | _ | _
  case on => cases b <;> simp_all [State.regWrite_on_one]
  all_goals exact hon

theorem writeOf_ne_disable {p : Params} {n : Nat} {w : RegWr} (h : writeOf p op n = some w) : w ≠ .on false := by
  unfold writeOf at h
  split at h <;> simp_all <;> subst h <;> simp

theorem onCourse_waitLine {n : Nat} {first : Bool} {p : Flag} {want : Bit} (hop : op.wellFormed = true)
    (hw : waitOf op n = some (p, want)) (hown : s.pinOwner = .periph) (hon : s.on = true)
    (hdue : (if first then 0 else s.cnt) < s.params.timeout) :
    (waitLine p want op n first s).onCourse = true := by
  obtain ⟨hn, hneed⟩ := waitOf_inside hw
  rw [waitLine_eq]
  generalize (if first then 0 else s.cnt) = c at hdue ⊢
  split_ifs with hbit hlast
  · rw [State.onCourse_line rfl]; simp_all
  · rw [State.onCourse_afterEpiloguePoll (.inl rfl) rfl]; simp_all
  · rw [State.onCourse_more rfl]; simp_all; omega

theorem onCourse_lineStep {n : Nat} {first : Bool} {t : State} (hop : op.wellFormed = true)
    (hown : s.pinOwner = .periph) (hon : needsInit op = true → s.on = true)
    (hdue : (waitOf op n).isSome = true → (if first then 0 else s.cnt) < s.params.timeout)
    (h : LineStep op n first s t) : t.onCourse = true := by
  cases h with
  | write w hw hn =>
    rw [State.onCourse_line rfl]
    refine ⟨hop, hn, by simpa using hown, fun hneed => ?_⟩
    exact State.regWrite_on_of_enabled (hon hneed) (writeOf_ne_disable hw)
  | wait p want hw => exact onCourse_waitLine hop hw hown (hon (waitOf_inside hw).2) (hdue (by simp [hw]))
  | read l hop' hn =>
    subst hop' hn
    rw [State.onCourse_line rfl]
    exact ⟨hop, by simp [lastLine], hown, hon⟩
  | respond d hn => rw [State.onCourse_idle rfl]; exact hown
  | domain hn hd => exact State.onCourse_faulted rfl

theorem onCourse_busyStep {st : Stage} {t : State} (hl : s.params.legal = true) (hs : s.onCourse = true)
    (hp : s.phase = .busy op st) (h : BusyStep op s st t) : t.onCourse = true := by
  cases h with
  | line h =>
    obtain ⟨hop, -, hown, hon⟩ := (State.onCourse_line hp).1 hs
    exact onCourse_lineStep hop hown hon (fun _ => by simpa using ((Params.legal_iff _).1 hl).1) h
  | more h =>
    obtain ⟨hop, -, hown, hon, hcnt⟩ := (State.onCourse_more hp).1 hs
    exact onCourse_lineStep hop hown hon (fun _ => by simpa using hcnt) h
  | recovery r => exact onCourse_recoverStep hl hs hp
  | busFault =>
    obtain ⟨-, -, hown, -⟩ := (State.onCourse_busFault hp).1 hs
    rw [State.onCourse_idle rfl]; exact hown

/-! ### Every step of a busy block keeps the bounds -/

theorem State.inBounds_iff (s : State) :
    s.inBounds = true ↔
      s.cnt ≤ s.params.timeout ∧ s.pcnt ≤ s.params.recoveryCap ∧
        s.cfgTiming.width = s.params.cfgTiming.width ∧ s.cfgMode.width = s.params.cfgMode.width := by
  simp [State.inBounds, State.widthsFit, and_assoc]

/-- A write of the configuration, if it is one, is of the parameters' values (R31). -/
def RegWr.widthsFit (p : Params) : RegWr → Prop
  | .cfgTiming v => v.width = p.cfgTiming.width
  | .cfgMode v => v.width = p.cfgMode.width
  | _ => True

theorem inBounds_regWrite {w : RegWr} (hw : w.widthsFit s.params) (hs : s.inBounds = true) :
    (s.regWrite w).inBounds = true := by
  rw [State.inBounds_iff] at hs ⊢
  obtain ⟨hcnt, hpcnt, htiming, hmode⟩ := id hs
  rcases w with _ | _ | b | _ | _ | _ | _ | _ | _ | _
  case on => cases b <;> exact hs
  case cfgTiming => exact ⟨hcnt, hpcnt, hw, hmode⟩
  case cfgMode => exact ⟨hcnt, hpcnt, htiming, hw⟩
  all_goals exact hs

theorem writeOf_widthsFit {p : Params} {n : Nat} {w : RegWr} (h : writeOf p op n = some w) : w.widthsFit p := by
  unfold writeOf at h
  split at h <;> simp_all <;> subst h <;> simp [RegWr.widthsFit]

theorem inBounds_waitLine {n : Nat} {first : Bool} {p : Flag} {want : Bit}
    (hdue : (if first then 0 else s.cnt) < s.params.timeout) (hs : s.inBounds = true) :
    (waitLine p want op n first s).inBounds = true := by
  rw [waitLine_eq]
  rw [State.inBounds_iff] at hs ⊢
  simp only [State.poll_pcnt, State.poll_params, State.poll_cfgTiming, State.poll_cfgMode]
  exact ⟨hdue, hs.2⟩

theorem inBounds_epiloguePoll {p : Flag} {first : Bool} {more next : RecStep}
    (hdue : (if first then 0 else s.cnt) < s.params.timeout) (hs : s.inBounds = true) :
    (s.epiloguePoll op p first more next).inBounds = true := by
  rw [State.epiloguePoll_eq]
  rw [State.inBounds_iff] at hs ⊢
  simp only [State.poll_pcnt, State.poll_params, State.poll_cfgTiming, State.poll_cfgMode]
  exact ⟨hdue, hs.2⟩

theorem inBounds_recoverStep {r : RecStep} (hl : s.params.legal = true) (hc : s.onCourse = true)
    (hs : s.inBounds = true) (hp : s.phase = .busy op (.recovery r)) : (recoverStep op r s).inBounds = true := by
  obtain ⟨htimeout, -⟩ := (Params.legal_iff _).1 hl
  obtain ⟨-, -, -, -, -, hcnt, -, hpulse⟩ := (State.onCourse_recovery hp).1 hc
  obtain ⟨hcnt', hpcnt', hwidths⟩ := (State.inBounds_iff s).1 hs
  cases r with
  | enter => rw [State.inBounds_iff]; exact ⟨hcnt', Nat.zero_le _, hwidths⟩
  | disable | reinitTiming | reinitMode | reinitOn | restartWrite | stopWrite =>
    exact inBounds_regWrite (by simp [RegWr.widthsFit]) hs
  | highDelay => rw [State.inBounds_iff]; exact ⟨hcnt', hpulse rfl, hwidths⟩
  | sample => rw [recoverStep, State.recSample_eq]; exact hs
  | restartPoll | stopPoll => exact inBounds_epiloguePoll htimeout hs
  | restartMore => exact inBounds_epiloguePoll (hcnt (.inl rfl)) hs
  | stopMore => exact inBounds_epiloguePoll (hcnt (.inr rfl)) hs
  | takeOwner | takeSda | takeScl | lowWrite | lowDelay | highWrite | release | exit => exact hs

theorem inBounds_lineStep {n : Nat} {first : Bool} {t : State}
    (hdue : (waitOf op n).isSome = true → (if first then 0 else s.cnt) < s.params.timeout)
    (hs : s.inBounds = true) (h : LineStep op n first s t) : t.inBounds = true := by
  cases h with
  | write w hw => exact inBounds_regWrite (writeOf_widthsFit hw) hs
  | wait p want hw => exact inBounds_waitLine (hdue (by simp [hw])) hs
  | read | respond | domain => exact hs

theorem inBounds_busyStep {st : Stage} {t : State} (hl : s.params.legal = true) (hc : s.onCourse = true)
    (hs : s.inBounds = true) (hp : s.phase = .busy op st) (h : BusyStep op s st t) : t.inBounds = true := by
  cases h with
  | line h => exact inBounds_lineStep (fun _ => by simpa using ((Params.legal_iff _).1 hl).1) hs h
  | more h =>
    obtain ⟨-, -, -, -, hcnt⟩ := (State.onCourse_more hp).1 hc
    exact inBounds_lineStep (fun _ => by simpa using hcnt) hs h
  | recovery r => exact inBounds_recoverStep hl hc hs hp
  | busFault => exact hs

/-! ### Parameters and the fault record -/

theorem params_recoverStep (r : RecStep) : (recoverStep op r s).params = s.params := by
  cases r <;> simp [recoverStep, State.epiloguePoll_eq, State.recSample_eq, State.pinDir, State.leaveRecovery]

theorem params_busyStep {st : Stage} {t : State} (h : BusyStep op s st t) : t.params = s.params := by
  cases h with
  | line h | more h => cases h <;> simp [waitLine_eq]
  | recovery r => exact params_recoverStep r
  | busFault => rfl

/-- Where no fault is recorded, one is recorded only with the phase FAULTED. -/
theorem State.faultFits_of_none (hf : s.fault = none) (hp : s.phase ≠ .faulted) : s.faultFits = true := by
  simp [State.faultFits, hf, hp]

theorem faultFits_recoverStep (hf : s.fault = none) (r : RecStep) : (recoverStep op r s).faultFits = true := by
  cases r <;>
    simp [State.faultFits, recoverStep, State.epiloguePoll_eq, State.recSample_eq, State.pinDir,
      State.leaveRecovery, hf]

theorem faultFits_busyStep {st : Stage} {t : State} (hf : s.fault = none) (h : BusyStep op s st t) :
    t.faultFits = true := by
  cases h with
  | line h | more h => cases h <;> simp [State.faultFits, waitLine_eq, hf]
  | recovery r => exact faultFits_recoverStep hf r
  | busFault => simp [State.faultFits, hf]

/-! ### The invariant -/

theorem inv_afterReset {p : Params} (hl : p.legal = true) (hs : List HostMove) (e : Env) :
    (State.afterReset p hs e).inv = true := by
  rw [State.inv_iff]
  exact ⟨hl, rfl, rfl, by simp [State.inBounds_iff, State.afterReset]⟩

theorem inv_raise (hs : s.inv = true) (c : FaultCode) : (s.raise c).inv = true := by
  rw [State.inv_iff] at hs ⊢
  obtain ⟨hl, -, -, hb⟩ := hs
  exact ⟨hl, rfl, State.onCourse_faulted rfl, hb⟩

theorem inv_accepted {i : Instr} (hs : s.inv = true) (hi : i.wellFormed = true) (hp : s.phase = .idle)
    (hf : s.fault = none) (hon : needsInit i = true → s.on = true) : (s.goTo i (.line 0)).inv = true := by
  rw [State.inv_iff] at hs ⊢
  obtain ⟨hl, -, hc, hb⟩ := hs
  rw [State.onCourse_idle hp] at hc
  refine ⟨hl, State.faultFits_of_none hf (by simp), ?_, hb⟩
  rw [State.onCourse_line rfl]
  exact ⟨hi, Nat.zero_le _, hc, hon⟩

theorem inv_busyStep {st : Stage} {t : State} (hs : s.inv = true) (hp : s.phase = .busy op st)
    (hf : s.fault = none) (h : BusyStep op s st t) : t.inv = true := by
  rw [State.inv_iff] at hs ⊢
  obtain ⟨hl, -, hc, hb⟩ := hs
  exact ⟨params_busyStep h ▸ hl, faultFits_busyStep hf h, onCourse_busyStep hl hc hp h,
    inBounds_busyStep hl hc hb hp h⟩

theorem inv_execStep {t : State} (hs : s.inv = true) (h : ExecStep s t) : t.inv = true := by
  cases h with
  | raises c => exact inv_raise hs c
  | accepts i hi hp hf hon => exact inv_accepted hs hi hp hf hon
  | runs hp hf h => exact inv_busyStep hs hp hf h

end

/-- Settles O11: a step resets, changes the host's moves only, or does one of `ExecStep`'s cases, and each keeps
the invariant. -/
theorem stepKeepsInvariant : Obligations.StepKeepsInvariant := by
  intro s t hs hstep
  cases machineStep_of_step hstep with
  | reset rest => exact inv_afterReset ((State.inv_iff s).1 hs).1 rest s.env
  | waits hs' => exact hs
  | acts hs' h => exact inv_execStep (s := { s with host := hs' }) hs h

/-- Settles O10: the default parameters are legal, and the reset state of legal parameters meets the invariant. -/
theorem resetMeetsInvariant : Obligations.ResetMeetsInvariant :=
  inv_afterReset rfl [] ⟨[], [], 0, []⟩

end Sys2Proof.Machine
end

section
namespace Sys2Proof.Machine

/-! ### The interface accesses (R10) -/

/-- Settles O22: each clause is the model's equation for that field's write. -/
theorem fieldWrites : Obligations.FieldWrites :=
  ⟨fun s v => ⟨s.regWrite_cfgTiming v, s.regWrite_cfgMode v⟩,
    fun s v => ⟨s.regWrite_sen v, s.regWrite_rsen v, s.regWrite_pen v, s.regWrite_rcen v, s.regWrite_acken v,
      s.regWrite_ackdt v⟩,
    fun s v => s.regWrite_trn v, State.regWrite_on_one, State.regWrite_on_zero⟩

/-- A poll whose draw is known, said whole. -/
theorem State.poll_eq {s : State} {b : Bit} {e : Env} (hd : s.env.drawBit = (b, e)) (p : Flag) :
    s.poll p = (b, (({ s with env := e } : State).notePoll p b).log (.poll p b)) := by
  simp [State.poll, hd]

/-- Settles O23: the draw is `Env.drawBit`'s, listed, cyclic or free. -/
theorem pollUpdatesCopies : Obligations.PollUpdatesCopies := by
  refine ⟨fun s p b rest hb => ?_, fun s p hb hc => ?_, fun s p hb hc => ?_⟩
  · rw [State.poll_eq (Env.drawBit_listed hb)]
    cases p <;> cases b <;> simp [State.notePoll, State.log]
  · simp only [State.poll, Env.drawBit_cycle hb hc]
  · simp [Env.drawBit_free hb hc]

/-- Settles O57: two cuts of a byte, to DATA_WIDTH and back to 8 bits, are one. -/
theorem transfersHaveDataWidth : Obligations.TransfersHaveDataWidth := by
  refine ⟨fun p v => ?_, fun p v hp => busByte_whole hp v, rfl⟩
  have hlt : v.toNat % 2 ^ p.dataWidth < 2 ^ 8 := (Nat.mod_le _ _).trans_lt v.isLt
  simp only [busByte, BitVec.toNat_setWidth, Nat.mod_eq_of_lt hlt]

/-! ### What a busy block's step runs (R12, R22) -/

theorem State.quiet_iff (s : State) :
    s.quiet = true ↔ (∀ w rest, s.host ≠ .offer w :: rest) ∧ ∀ rest, s.host ≠ .hold :: rest := by
  rcases hm : s.host with _ | ⟨_ | _ | _ | _, rest⟩ <;> simp [State.quiet, hm]

/-- Settles O14: each clause is the turn's case for that phase and host move. -/
theorem stepRunsDecodedCommand : Obligations.StepRunsDecodedCommand := by
  refine ⟨fun s w rest i hp hf hh hd => ?_, fun s op st hp hf hq => ?_, fun s op st rest hp hf hh => ?_⟩
  · rw [step_idle_word hf hp hh, hd]
  · rw [step_busy_quiet hf hp ((State.quiet_iff s).1 hq)]
    cases st <;> rfl
  · rw [step_busy_hold hf hp hh]
    cases st <;> rfl

/-! ### The recovery machine, step by step (R171) -/

/-- A poll of recovery's epilogue leaves what R177 and R180 say, `first` or not. -/
theorem State.epiloguePoll_eq_result (i : Instr) (p : Flag) (first : Bool) (more next : RecStep) (s : State) :
    s.epiloguePoll i p first more next = epilogueResult i p (if first then 0 else s.cnt) more next s := by
  rw [State.epiloguePoll_eq]
  simp only [epilogueResult, State.poll_bit, beq_iff_eq]
  split_ifs <;> rfl

theorem execRecover_of_recoverStep {op : Instr} {r : RecStep} {s t : State} (hf : s.fault = none)
    (hp : s.phase = .busy op (.recovery r)) (ht : recoverStep op r s = t) : exec .recover s = .next t :=
  ht ▸ execRecover_recovery hf hp

/-- A sample whose draw is known, said whole (R172). -/
theorem recoverStep_sample {op : Instr} {s : State} {b : Bit} {e : Env} (hd : s.env.drawBit = (b, e)) :
    recoverStep op .sample s =
      { s with
        env := e, ev := s.ev ++ [.sda b]
        phase :=
          if b = true ∨ s.pcnt = s.params.recoveryCap then .busy op (.recovery .release)
          else .busy op (.recovery .lowWrite) } := by
  rw [recoverStep, State.recSample_eq]
  simp only [State.pinReadSda, hd, Bool.or_eq_true, beq_iff_eq]
  split_ifs <;> rfl

/-- Settles O34: each clause is `recoverStep`'s equation for its state. -/
theorem recoverSteps : Obligations.RecoverSteps := by
  intro op s hf
  have run {r : RecStep} {t : State} (ht : recoverStep op r s = t) (hp : s.phase = .busy op (.recovery r)) :
      exec .recover s = .next t := execRecover_of_recoverStep hf hp ht
  refine ⟨run rfl, run rfl, run rfl, run rfl, run rfl, run rfl, run rfl, run rfl, run rfl, run rfl, run rfl, run rfl,
    fun hp b rest hb => run (recoverStep_sample (Env.drawBit_listed hb)) hp,
    fun hp hb hc => ?_,
    fun hp hb hc => run (recoverStep_sample (Env.drawBit_free hb hc)) hp,
    run rfl, run rfl, run (State.epiloguePoll_eq_result ..), run (State.epiloguePoll_eq_result ..), run rfl,
    run (State.epiloguePoll_eq_result ..), run (State.epiloguePoll_eq_result ..), run rfl⟩
  rw [run (recoverStep_sample (Env.drawBit_cycle hb hc)) hp]
  symm
  exact execRecover_of_recoverStep hf hp (recoverStep_sample rfl)

/-! ### The event log (R28) -/

/-- The event a step of recovery logs; `b` is the bit it draws, if it draws one. -/
def recoveryEvent (p : Params) (b : Bit) : RecStep → Event
  | .enter => .recBegin
  | .disable => .wr (.on false)
  | .reinitTiming => .wr (.cfgTiming p.cfgTiming)
  | .reinitMode => .wr (.cfgMode p.cfgMode)
  | .reinitOn => .wr (.on true)
  | .takeOwner => .own .manual
  | .takeSda => .dir .sda .input
  | .takeScl => .dir .scl .output
  | .lowWrite => .scl false
  | .lowDelay | .highDelay => .delay
  | .highWrite => .scl true
  | .sample => .sda b
  | .release => .own .periph
  | .restartWrite => .wr (.rsen true)
  | .restartPoll | .restartMore => .poll .rsen b
  | .stopWrite => .wr (.pen true)
  | .stopPoll | .stopMore => .poll .pen b
  | .exit => .recEnd

theorem recoverStep_ev (op : Instr) (r : RecStep) (s : State) :
    (recoverStep op r s).ev = s.ev ++ [recoveryEvent s.params s.env.drawBit.1 r] := by
  cases r with
  | restartPoll | restartMore | stopPoll | stopMore =>
    simp only [recoverStep, State.epiloguePoll_eq, State.poll_ev, recoveryEvent]
  | sample => simp only [recoverStep, State.recSample_eq, State.pinReadSda_ev, recoveryEvent]
  | _ => rfl

@[simp] theorem waitLine_ev (p : Flag) (want : Bit) (op : Instr) (n : Nat) (first : Bool) (s : State) :
    (waitLine p want op n first s).ev = s.ev ++ [.poll p s.env.drawBit.1] := by
  rw [waitLine_eq]; exact s.poll_ev p

theorem lineStep_ev {op : Instr} {n : Nat} {first : Bool} {s t : State} (h : LineStep op n first s t) :
    t.ev = s.ev ∨ ∃ e, t.ev = s.ev ++ [e] := by
  cases h with
  | write w => exact .inr ⟨.wr w, by simp⟩
  | wait p want => exact .inr ⟨_, waitLine_ev ..⟩
  | read => exact .inr ⟨_, rfl⟩
  | respond | domain => exact .inl rfl

theorem execStep_ev {s t : State} (h : ExecStep s t) : t.ev = s.ev ∨ ∃ e, t.ev = s.ev ++ [e] := by
  cases h with
  | raises | accepts => exact .inl rfl
  | runs hp hf h =>
    cases h with
    | line h | more h => exact lineStep_ev h
    | recovery r => exact .inr ⟨_, recoverStep_ev ..⟩
    | busFault => exact .inl rfl

/-- Settles O50: a step that is no device reset either changes the host's moves only or is one of `ExecStep`'s
cases. -/
theorem logGrowsByOneEvent : Obligations.LogGrowsByOneEvent := by
  intro s t hh hstep
  cases machineStep_of_step hstep with
  | reset rest hr => exact absurd hr (hh rest)
  | waits => exact .inl rfl
  | acts hs h => exact execStep_ev (s := { s with host := hs }) h

/-! ### Stages -/

/-- At a stage of its command, a later poll is a poll of a guarded wait. -/
theorem lineStep_of_waitOf {op : Instr} {n : Nat} {first : Bool} {s t : State} (hw : (waitOf op n).isSome = true)
    (h : LineStep op n first s t) :
    ∃ p want, waitOf op n = some (p, want) ∧ t = waitLine p want op n first s := by
  obtain ⟨⟨p, want⟩, hw⟩ := Option.isSome_iff_exists.1 hw
  have hn := (waitOf_inside hw).1
  cases h with
  | write w hw' =>
    unfold writeOf at hw'
    split at hw' <;> simp_all [waitOf]
  | wait p want hw => exact ⟨p, want, hw, rfl⟩
  | read l hop hn2 => subst hop hn2; cases hw
  | respond d hn' => omega
  | domain hn' => omega

theorem State.phaseFits_more {s : State} {op : Instr} {n : Nat} (hs : s.phaseFits = true)
    (hp : s.phase = .busy op (.more n)) : (waitOf op n).isSome = true := by
  simp [State.phaseFits, hp, stageOf] at hs
  exact hs.2

end Sys2Proof.Machine
end

section
namespace Sys2Proof.Machine

/-! ### The widths of the accesses (R6, R31, R58) -/

/-- What an access logged in a step from `s` to `t` says of its value and of the field it reaches. -/
def Event.fitsWidths (s t : State) : Event → Prop
  | .wr (.trn v) => ∃ b, s.phase = .busy (.write b) (.line 1) ∧ v = busByte s.params b ∧ t.trn = v
  | .rd v => busByte s.params v = v ∧ t.rxd = v
  | .wr (.cfgTiming v) => v = s.params.cfgTiming ∧ t.cfgTiming = v
  | .wr (.cfgMode v) => v = s.params.cfgMode ∧ t.cfgMode = v
  | _ => True

theorem fitsWidths_writeOf {op : Instr} {n : Nat} {w : RegWr} {s t : State} (hp : s.phase = .busy op (.line n))
    (hw : writeOf s.params op n = some w) (ht : t = (s.regWrite w).goTo op (.line (n + 1))) :
    (Event.wr w).fitsWidths s t := by
  subst ht
  unfold writeOf at hw
  split at hw <;> cases hw <;>
    simp [Event.fitsWidths, hp, State.regWrite_cfgTiming, State.regWrite_cfgMode, State.regWrite_trn]

theorem fitsWidths_recoverStep (op : Instr) (r : RecStep) (s : State) :
    (recoveryEvent s.params s.env.drawBit.1 r).fitsWidths s (recoverStep op r s) := by
  cases r with
  | reinitTiming | reinitMode => exact ⟨rfl, rfl⟩
  | _ => trivial

/-- Every step of a busy block at a stage of its command logs nothing, or one access of the right width. -/
theorem fitsWidths_busyStep {op : Instr} {st : Stage} {s t : State} (hs : s.phaseFits = true)
    (hp : s.phase = .busy op st) (h : BusyStep op s st t) :
    t.ev = s.ev ∨ ∃ e, t.ev = s.ev ++ [e] ∧ e.fitsWidths s t := by
  cases h with
  | line h =>
    cases h with
    | write w hw hn => exact .inr ⟨.wr w, by simp, fitsWidths_writeOf hp hw rfl⟩
    | wait p want => exact .inr ⟨_, waitLine_ev .., trivial⟩
    | read => exact .inr ⟨_, rfl, busByte_twice .., rfl⟩
    | respond | domain => exact .inl rfl
  | more h =>
    obtain ⟨p, want, -, rfl⟩ := lineStep_of_waitOf (State.phaseFits_more hs hp) h
    exact .inr ⟨_, waitLine_ev .., trivial⟩
  | recovery r => exact .inr ⟨_, recoverStep_ev .., fitsWidths_recoverStep op r s⟩
  | busFault => exact .inl rfl

theorem fitsWidths_step {s t : State} (hs : s.phaseFits = true) (h : step s = .next t) {e : Event}
    (he : t.ev = s.ev ++ [e]) : e.fitsWidths s t := by
  cases machineStep_of_step h with
  | reset => simp [State.afterReset] at he
  | waits => simp at he
  | acts hs' h =>
    cases h with
    | raises | accepts => simp at he
    | runs hp hf h =>
      obtain hev | ⟨e', hev, hfit⟩ := fitsWidths_busyStep (s := { s with host := hs' }) hs hp h
      · simp [hev] at he
      · obtain rfl : e' = e := by simpa [hev] using he
        cases e' with
        | wr w => cases w <;> exact hfit
        | _ => exact hfit

/-- Settles O58: `Event.fitsWidths` holds of the event a step logs; each clause is its case. -/
theorem accessWidths : Obligations.AccessWidths :=
  fun _ _ hs h =>
    ⟨fun _ he => fitsWidths_step hs h he, fun _ he => fitsWidths_step hs h he,
      fun _ he => fitsWidths_step hs h he, fun _ he => fitsWidths_step hs h he⟩

/-! ### The frame (R10, R22 to R45) -/

/-- Settles O49: by the branches of `ExecStep`; the writes by `writeOf`'s rows, recovery by its states. -/
theorem whoWritesWhat : Obligations.WhoWritesWhat := by
  intro i s t hs h
  cases exec_cases h with
  | raises c => simp
  | accepts => simp
  | runs hp hf h =>
    cases h with
    | line h =>
      cases h with
      | write w hw hn =>
        unfold writeOf at hw
        split at hw <;> cases hw <;>
          simp [hp, State.regWrite_cfgTiming, State.regWrite_cfgMode, State.regWrite_trn, State.regWrite_sen,
            State.regWrite_rsen, State.regWrite_pen, State.regWrite_rcen, State.regWrite_acken,
            State.regWrite_ackdt, State.regWrite_on_one]
      | wait p want hw => simp +contextual [waitLine_eq, hp]
      | read l hop hn => subst hop hn; simp [hp]
      | respond d hn => simp
      | domain => simp
    | more h =>
      obtain ⟨p, want, -, rfl⟩ := lineStep_of_waitOf (State.phaseFits_more hs hp) h
      simp +contextual [waitLine_eq, hp]
    | recovery r =>
      cases r
      case restartPoll | restartMore | stopPoll | stopMore => simp [recoverStep, State.epiloguePoll_eq, hp]
      all_goals
        simp [recoverStep, hp, State.pinDir_sda, State.pinDir_scl, State.regWrite_on_zero, State.regWrite_on_one,
          State.regWrite_cfgTiming, State.regWrite_cfgMode, State.regWrite_rsen, State.regWrite_pen,
          State.leaveRecovery, State.recSample_eq]
    | busFault => simp [hp]

end Sys2Proof.Machine
end

section
namespace Sys2Proof.Machine

/-! ### Runs: from a step to many -/

/-- `n` steps lead from `s` to `t`. -/
def Runs (n : Nat) (s t : State) : Prop := Host.Core.run Sys2Proof.core n s = .next t

theorem Runs.of_step {s t : State} (h : step s = .next t) : Runs 1 s t := by
  simp only [Runs, Host.Core.run, Sys2Proof.core, h]

theorem Runs.trans {m n : Nat} {s t u : State} (h : Runs m s t) (h' : Runs n t u) : Runs (m + n) s u := by
  induction m generalizing s with
  | zero => cases h; rwa [Nat.zero_add]
  | succ m ih =>
    rw [Nat.succ_add]
    simp only [Runs, Host.Core.run] at h ⊢
    split at h
    · exact ih h
    · cases h
    · cases h

theorem wellFormed_of_decode {w : Word} {i : Instr} (h : decode w = some i) : i.wellFormed = true := by
  simp only [decode, Option.filter_eq_some_iff] at h
  exact h.2

theorem exec_accept {i : Instr} {s : State} (hi : i.wellFormed = true) (hp : s.phase = .idle) (hf : s.fault = none)
    (hon : needsInit i = true → s.on = true) : exec i s = .next (s.goTo i (.line 0)) := by
  rw [exec_eq_command hi, command_idle hf hp]
  obtain ⟨hneed, hoff, -⟩ | ⟨-, h⟩ := s.accept_cases i
  · simp [hon hneed] at hoff
  · rw [h]

/-- An idle block takes a legal word: the command is at its first line, and only the host's moves changed (R120). -/
theorem Runs.accept {s : State} {w : Word} {rest : List HostMove} {i : Instr} (hp : s.phase = .idle)
    (hf : s.fault = none) (hh : s.host = .issue w :: rest) (hd : decode w = some i)
    (hon : needsInit i = true → s.on = true) :
    Runs 1 s (({ s with host := rest } : State).goTo i (.line 0)) := by
  apply Runs.of_step
  rw [step_idle_word hf hp (.inl hh), hd]
  exact exec_accept (wellFormed_of_decode hd) hp hf hon

/-- A busy block that its host leaves alone makes its command's next step. -/
theorem Runs.busy {op : Instr} {st : Stage} {s t : State} (hop : op.wellFormed = true) (hf : s.fault = none)
    (hp : s.phase = .busy op st) (hq : s.quiet = true) (ht : busyStep op st s = t) : Runs 1 s t := by
  apply Runs.of_step
  rw [step_busy_quiet hf hp ((State.quiet_iff s).1 hq), ← ht]
  cases st with
  | recovery r => exact execRecover_recovery hf hp
  | line | more | busFault => exact (exec_eq_command hop s).trans (command_busy hf hp)

/-! ### A whole guarded wait (R121, R122) -/

section
variable {op : Instr} {n : Nat} {p : Flag} {want : Bit}

theorem busyStep_wait (hop : op.wellFormed = true) (hw : waitOf op n = some (p, want)) (first : Bool) (s : State) :
    busyStep op (if first then .line n else .more n) s = waitLine p want op n first s := by
  obtain ⟨p', want', hw', h⟩ :=
    lineStep_of_waitOf (Option.isSome_iff_exists.2 ⟨_, hw⟩) (lineStep_of_wellFormed hop n first s)
  cases hw.symm.trans hw'
  cases first <;> exact h

/-- A poll that does not meet its wait changes no copy of a control bit: the bit reports no completion (R10). -/
theorem notePoll_unmet (hw : waitOf op n = some (p, want)) (s : State) : s.notePoll p (!want) = s := by
  unfold waitOf at hw
  split at hw <;> cases hw <;> rfl

/-- The state after a guarded wait that is met, `c` its polls. -/
def State.waitMet (op : Instr) (n : Nat) (p : Flag) (want : Bit) (c : Nat) (polled bits : List Bit) (s : State) :
    State :=
  { s.notePoll p want with
    env := { s.env with bits := bits }, cnt := c, ev := s.ev ++ pollEvents p polled
    phase := .busy op (.line (n + 1)) }

@[simp] theorem State.waitMet_fault (c : Nat) (polled bits : List Bit) (s : State) :
    (s.waitMet op n p want c polled bits).fault = s.fault := by simp [State.waitMet, State.notePoll_eq]

@[simp] theorem State.waitMet_host (c : Nat) (polled bits : List Bit) (s : State) :
    (s.waitMet op n p want c polled bits).host = s.host := by simp [State.waitMet, State.notePoll_eq]

@[simp] theorem State.waitMet_params (c : Nat) (polled bits : List Bit) (s : State) :
    (s.waitMet op n p want c polled bits).params = s.params := by simp [State.waitMet, State.notePoll_eq]

theorem waitLine_met {first : Bool} {bits : List Bit} {s : State} (hb : s.env.bits = want :: bits) :
    waitLine p want op n first s =
      s.waitMet op n p want ((if first then 0 else s.cnt) + 1) [want] bits := by
  rw [waitLine_eq, State.poll_eq (Env.drawBit_listed hb), Env.drawBit_listed hb]
  simp [State.waitMet, State.notePoll_eq, State.log, pollEvents]

theorem waitLine_unmet {first : Bool} {bits : List Bit} {s : State} (hw : waitOf op n = some (p, want))
    (hb : s.env.bits = (!want) :: bits) (hleft : (if first then 0 else s.cnt) + 1 < s.params.timeout) :
    waitLine p want op n first s =
      { s with
        env := { s.env with bits := bits }, cnt := (if first then 0 else s.cnt) + 1
        ev := s.ev ++ [.poll p (!want)], phase := .busy op (.more n) } := by
  rw [waitLine_eq, State.poll_eq (Env.drawBit_listed hb), Env.drawBit_listed hb, notePoll_unmet hw]
  simp [State.log, hleft.ne]

/-- A guarded wait that `k` polls do not meet and the next one does, its own first poll being `first`. -/
theorem Runs.wait_from (hop : op.wellFormed = true) (hw : waitOf op n = some (p, want)) (k : Nat) {first : Bool}
    {bits : List Bit} {s : State} (hf : s.fault = none)
    (hp : s.phase = .busy op (if first then .line n else .more n)) (hq : s.quiet = true)
    (hk : (if first then 0 else s.cnt) + k < s.params.timeout) (hb : s.env.bits = waitBits want k ++ bits) :
    Runs (k + 1) s
      (s.waitMet op n p want ((if first then 0 else s.cnt) + (k + 1)) (waitBits want k) bits) := by
  induction k generalizing s first with
  | zero =>
    exact .busy hop hf hp hq ((busyStep_wait hop hw first s).trans (waitLine_met hb))
  | succ k ih =>
    have hb' : s.env.bits = (!want) :: (waitBits want k ++ bits) := by
      simpa [waitBits, List.replicate_succ] using hb
    have hstep := (busyStep_wait hop hw first s).trans (waitLine_unmet hw hb' (by omega))
    rw [Nat.add_comm]
    refine (Runs.busy hop hf hp hq hstep).trans ?_
    convert ih (first := false) (s := { s with
        env := { s.env with bits := waitBits want k ++ bits }, cnt := (if first then 0 else s.cnt) + 1
        ev := s.ev ++ [.poll p (!want)], phase := .busy op (.more n) }) hf rfl hq (by simp; omega) rfl using 1
    simp [State.waitMet, State.notePoll_eq, pollEvents, waitBits, List.replicate_succ]
    omega

theorem Runs.wait (hop : op.wellFormed = true) (hw : waitOf op n = some (p, want)) {k : Nat} {bits : List Bit}
    {s : State} (hf : s.fault = none) (hp : s.phase = .busy op (.line n)) (hq : s.quiet = true)
    (hk : k < s.params.timeout) (hb : s.env.bits = waitBits want k ++ bits) :
    Runs (k + 1) s (s.waitMet op n p want (k + 1) (waitBits want k) bits) := by
  simpa using Runs.wait_from (first := true) hop hw k hf hp hq (by simpa using hk) hb

end
end Sys2Proof.Machine
end

section
namespace Sys2Proof.Machine

/-! ### Whole commands (R123 to R132) -/

theorem State.quiet_congr {s t : State} (h : s.host = t.host) : s.quiet = t.quiet := by
  simp [State.quiet, h]

/-- A run's length and last state in another form. -/
theorem Runs.cast {m n : Nat} {s t u : State} (h : Runs m s t) (hn : m = n) (ht : t = u) :
    Runs n s u := by
  subst hn ht
  exact h

/-- Settles O38: acceptance, three writes and the response. -/
theorem initRun : Obligations.InitRun := by
  intro s rest hp hf hh hq
  have h0 := Runs.accept hp hf hh (i := .init) (by decide) (by simp [needsInit])
  have h1 := h0.trans (Runs.busy rfl hf rfl hq rfl)
  have h2 := h1.trans (Runs.busy rfl hf rfl hq rfl)
  have h3 := h2.trans (Runs.busy rfl hf rfl hq rfl)
  have h4 := h3.trans (Runs.busy rfl hf rfl hq rfl)
  refine h4.cast rfl ?_
  simp [busyStep, stageStep, linesOf, lastOf, cfgTimingLine, cfgModeLine, writeLine, respondLine,
    State.regWrite_cfgTiming, State.regWrite_cfgMode, State.regWrite_on_one, State.respond, State.goTo,
    statusSuccess, hp]

/-- The end of the commands that end in a guarded wait and `respond(SUCCESS, 0x00)`. -/
theorem Runs.wait_respond {op : Instr} {n : Nat} {p : Flag} {want : Bit} {k : Nat} {bits : List Bit} {s : State}
    (hop : op.wellFormed = true) (hw : waitOf op n = some (p, want)) (hlast : (linesOf op).length = n + 1)
    (hresp : lastOf op = respondLine) (hf : s.fault = none) (hp : s.phase = .busy op (.line n))
    (hq : s.quiet = true) (hk : k < s.params.timeout) (hb : s.env.bits = waitBits want k ++ bits) :
    Runs (k + 2) s ((s.waitMet op n p want (k + 1) (waitBits want k) bits).respond statusSuccess 0x00#8) := by
  refine (Runs.wait hop hw hf hp hq hk hb).trans (.busy hop ?_ rfl ?_ ?_)
  · simpa using hf
  · rwa [State.quiet_congr (State.waitMet_host ..)]
  · simp [busyStep, stageStep, List.getD, hlast, hresp, respondLine]

/-- A register write, the guarded wait after it, and `respond(SUCCESS, 0x00)`. -/
theorem Runs.write_wait_respond {op : Instr} {n : Nat} {w : RegWr} {p : Flag} {want : Bit} {k : Nat}
    {bits : List Bit} {s : State} (hop : op.wellFormed = true) (hline : (linesOf op)[n]? = some (writeLine w))
    (hw : waitOf op (n + 1) = some (p, want)) (hlast : (linesOf op).length = n + 2)
    (hresp : lastOf op = respondLine) (hf : s.fault = none) (hp : s.phase = .busy op (.line n))
    (hq : s.quiet = true) (hk : k < s.params.timeout) (hb : s.env.bits = waitBits want k ++ bits) :
    Runs (k + 3) s
      ((((s.regWrite w).goTo op (.line (n + 1))).waitMet op (n + 1) p want (k + 1) (waitBits want k) bits).respond
        statusSuccess 0x00#8) := by
  have hwrite : Runs 1 s ((s.regWrite w).goTo op (.line (n + 1))) :=
    .busy hop hf hp hq (by simp [busyStep, stageStep, List.getD, hline, writeLine])
  refine (hwrite.trans (Runs.wait_respond hop hw hlast hresp ?_ rfl ?_ ?_ ?_)).cast (by omega) rfl
  · simpa using hf
  · exact (State.quiet_congr (State.regWrite_keeps_host w s)).trans hq
  · simpa using hk
  · simpa using hb

/-- Settles O39: acceptance, the write (but for WAITIDLE), the wait, and the response. -/
theorem conditionRuns : Obligations.ConditionRuns := by
  intro s rest k bits hp hf hon hk hq hb
  refine ⟨fun hh => ?_, fun hh => ?_, fun hh => ?_, fun hh => ?_⟩
  · have haccept := Runs.accept hp hf hh (i := .start) (by decide) (fun _ => hon)
    have hrun := haccept.trans (Runs.write_wait_respond (w := .sen true) rfl rfl rfl rfl rfl hf rfl hq hk hb)
    refine hrun.cast (by omega) ?_
    simp [State.regWrite_sen, State.waitMet, State.notePoll, State.respond, State.goTo, statusSuccess, hp]
  · have haccept := Runs.accept hp hf hh (i := .stop) (by decide) (fun _ => hon)
    have hrun := haccept.trans (Runs.write_wait_respond (w := .pen true) rfl rfl rfl rfl rfl hf rfl hq hk hb)
    refine hrun.cast (by omega) ?_
    simp [State.regWrite_pen, State.waitMet, State.notePoll, State.respond, State.goTo, statusSuccess, hp]
  · have haccept := Runs.accept hp hf hh (i := .restart) (by decide) (fun _ => hon)
    have hrun := haccept.trans (Runs.write_wait_respond (w := .rsen true) rfl rfl rfl rfl rfl hf rfl hq hk hb)
    refine hrun.cast (by omega) ?_
    simp [State.regWrite_rsen, State.waitMet, State.notePoll, State.respond, State.goTo, statusSuccess, hp]
  · have haccept := Runs.accept hp hf hh (i := .waitidle) (by decide) (fun _ => hon)
    have hrun := haccept.trans (Runs.wait_respond rfl rfl rfl rfl hf rfl hq hk hb)
    refine hrun.cast (by omega) ?_
    simp [State.waitMet, State.notePoll, State.respond, State.goTo, statusSuccess, hp]

/-- ACK and NACK are one command but for the value written to ACKDT (R128 to R130). -/
theorem acknowledge_run {op : Instr} {nack : Bit} (hop : (op, nack) = (.ack, false) ∨ (op, nack) = (.nack, true))
    {s : State} {rest : List HostMove} {k : Nat} {bits : List Bit} {w : Word} (hp : s.phase = .idle)
    (hf : s.fault = none) (hon : s.on = true) (hk : k < s.params.timeout) (hh : s.host = .issue w :: rest)
    (hd : decode w = some op) (hq : ({ s with host := rest } : State).quiet = true)
    (hb : s.env.bits = waitBits false k ++ bits) :
    Host.Core.run Sys2Proof.core (k + 5) s =
      .next { s with
        host := rest, env := { s.env with bits := bits }, cnt := k + 1, ackdt := nack, acken := false
        ev := s.ev ++ [.wr (.ackdt nack), .wr (.acken true)] ++ pollEvents .acken (waitBits false k)
        resp := some ⟨0b001#3, 0x00#8⟩ } := by
  have haccept := Runs.accept hp hf hh hd (fun _ => hon)
  have hackdt : Runs 1 (({ s with host := rest } : State).goTo op (.line 0))
      ((({ s with host := rest } : State).regWrite (.ackdt nack)).goTo op (.line 1)) := by
    rcases hop with h | h <;> cases h <;> exact .busy rfl hf rfl hq rfl
  have hrest : Runs (k + 3) ((({ s with host := rest } : State).regWrite (.ackdt nack)).goTo op (.line 1)) _ :=
    Runs.write_wait_respond (w := .acken true) (p := .acken) (want := false) (wellFormed_of_decode hd)
      (by rcases hop with h | h <;> cases h <;> rfl) (by rcases hop with h | h <;> cases h <;> rfl)
      (by rcases hop with h | h <;> cases h <;> rfl) (by rcases hop with h | h <;> cases h <;> rfl)
      hf rfl hq hk hb
  refine ((haccept.trans hackdt).trans hrest).cast (by omega) ?_
  simp [State.regWrite_ackdt, State.regWrite_acken, State.waitMet, State.notePoll, State.respond, State.goTo,
    statusSuccess, hp]

/-- Settles O40: acceptance, the two writes of the acknowledge sequence, its wait, and the response. -/
theorem acknowledgeRuns : Obligations.AcknowledgeRuns := by
  intro s rest k bits nack hp hf hon hk hh hq hb
  cases nack with
  | false => exact acknowledge_run (.inl rfl) hp hf hon hk hh (by decide) hq hb
  | true => exact acknowledge_run (.inr rfl) hp hf hon hk hh (by decide) hq hb

theorem decode_write (b : Byte) : decode (0x7000#16 ||| b.setWidth 16) = some (.write b) := by
  revert b; decide

/-- Settles O41: acceptance, the idle wait, the load of TRN, the wait for an empty buffer, the idle wait, and the
response. -/
theorem writeRun : Obligations.WriteRun := by
  intro s rest b j k m bits hp hf hon hj hk hm hh hq hb
  rw [List.append_assoc, List.append_assoc] at hb
  have h0 := Runs.accept hp hf hh (decode_write b) (fun _ => hon)
  have h1 := h0.trans (Runs.wait (n := 0) rfl rfl hf rfl hq hj hb)
  have h2 := h1.trans (Runs.busy rfl hf rfl hq rfl)
  have h3 := h2.trans (Runs.wait (n := 2) rfl rfl hf rfl hq hk rfl)
  have h4 := h3.trans (Runs.wait_respond rfl rfl rfl rfl hf rfl hq hm rfl)
  refine h4.cast (by omega) ?_
  simp [busyStep, stageStep, linesOf, trnLine, writeLine, State.regWrite_trn, State.waitMet, State.notePoll,
    State.respond, State.goTo, statusSuccess, hp]

theorem decode_read (l : Bit) : decode (if l then 0x8100#16 else 0x8000#16) = some (.read l) := by
  revert l; decide

theorem State.readRcv_listed {s : State} {v : Byte} {rest : List Byte} (hv : s.env.bytes = v :: rest) :
    s.readRcv =
      { s with
        env := { s.env with bytes := rest }, rxd := busByte s.params v
        ev := s.ev ++ [.rd (busByte s.params v)] } := by
  simp [State.readRcv, Env.drawByte_listed hv, State.log]

/-- Settles O42: acceptance, the enable of the receiver, its wait, the read of RCV, the acknowledge sequence, and the
response. -/
theorem readRun : Obligations.ReadRun := by
  intro s rest l v bytes j k bits hp hf hon hj hk hh hq hb hv
  rw [List.append_assoc] at hb
  have h0 := Runs.accept hp hf hh (decode_read l) (fun _ => hon)
  have h1 := h0.trans (Runs.busy rfl hf rfl hq rfl)
  have h2 := h1.trans (Runs.wait (n := 1) rfl rfl hf rfl hq hj hb)
  have h3 := h2.trans (Runs.busy rfl hf rfl hq (congrArg (State.goTo _ (.line 3)) (State.readRcv_listed hv)))
  have h4 := h3.trans (Runs.busy rfl hf rfl hq rfl)
  have h5 := h4.trans (Runs.busy rfl hf rfl hq rfl)
  have h6 := h5.trans (Runs.wait (n := 5) rfl rfl hf rfl hq hk rfl)
  have h7 := h6.trans (Runs.busy rfl hf rfl hq rfl)
  refine h7.cast (by omega) ?_
  simp [busyStep, stageStep, linesOf, lastOf, ackSeq, writeLine, respondRxdLine, State.regWrite_rcen,
    State.regWrite_ackdt, State.regWrite_acken, State.waitMet, State.notePoll, State.respond, State.goTo,
    statusSuccess, hp]

end Sys2Proof.Machine
end

section
namespace Sys2Proof.Machine

/-! ### A command in progress, left alone by its host -/

/-- The block is busy with `op` at stage `st`, on course, with legal parameters and no nesting, and its host quiet. -/
structure InProgress (op : Instr) (st : Stage) (s : State) : Prop where
  phase : s.phase = .busy op st
  fault : s.fault = none
  quiet : s.quiet = true
  legal : s.params.legal = true
  unnested : s.params.nestedRecovery = false
  course : s.onCourse = true

theorem host_recoverStep (op : Instr) (r : RecStep) (s : State) : (recoverStep op r s).host = s.host := by
  cases r <;> simp [recoverStep, State.epiloguePoll_eq, State.recSample_eq, State.pinDir, State.leaveRecovery]

theorem host_busyStep {op : Instr} {st : Stage} {s t : State} (h : BusyStep op s st t) : t.host = s.host := by
  cases h with
  | line h | more h => cases h <;> simp [waitLine_eq]
  | recovery r => exact host_recoverStep op r s
  | busFault => rfl

section
variable {op : Instr} {st : Stage} {s : State}

theorem InProgress.wellFormed (h : InProgress op st s) : op.wellFormed = true := by
  have hc := h.course
  simp only [State.onCourse, State.phaseFits, h.phase, Bool.and_eq_true] at hc
  tauto

theorem InProgress.busyStep (h : InProgress op st s) : BusyStep op s st (busyStep op st s) :=
  busyStep_of_wellFormed (.inl h.wellFormed) s

theorem InProgress.runs (h : InProgress op st s) : Runs 1 s (Machine.busyStep op st s) :=
  .busy h.wellFormed h.fault h.phase h.quiet rfl

/-- A step that leaves the block busy leaves the command in progress. -/
theorem InProgress.next (h : InProgress op st s) {st' : Stage} (hp : (Machine.busyStep op st s).phase = .busy op st') :
    InProgress op st' (Machine.busyStep op st s) where
  phase := hp
  fault := by simpa [State.faultFits, hp] using faultFits_busyStep h.fault h.busyStep
  quiet := (State.quiet_congr (host_busyStep h.busyStep)).trans h.quiet
  legal := params_busyStep h.busyStep ▸ h.legal
  unnested := params_busyStep h.busyStep ▸ h.unnested
  course := onCourse_busyStep h.legal h.course h.phase h.busyStep

/-! ### The response a command in progress comes to -/

/-- The run of `s` that logs `evs`, an event a step, and then responds `r` in `t`. -/
structure Responds (op : Instr) (s : State) (evs : List Event) (r : Response) (t : State) : Prop where
  runs : Runs (evs.length + 1) s t
  phase : t.phase = .idle
  fault : t.fault = none
  resp : t.resp = some r
  ev : t.ev = s.ev ++ evs
  host : t.host = s.host
  pinOwner : t.pinOwner = .periph
  on : needsInit op = true → t.on = true

theorem Responds.cons {t u : State} {e : Event} {evs : List Event} {r : Response} (hrun : Runs 1 s u)
    (hev : u.ev = s.ev ++ [e]) (hhost : u.host = s.host) (h : Responds op u evs r t) :
    Responds op s (e :: evs) r t :=
  { h with
    runs := (hrun.trans h.runs).cast (Nat.add_comm ..) rfl
    ev := by rw [h.ev, hev, List.append_assoc]; rfl
    host := h.host.trans hhost }

theorem InProgress.responds_busFault (h : InProgress op .busFault s) :
    Responds op s [] ⟨statusBusFault, Config.freeByte s.env.taken⟩ s.respondBusFault := by
  obtain ⟨-, -, hown, hon⟩ := (State.onCourse_busFault h.phase).1 h.course
  exact ⟨h.runs, rfl, h.fault, rfl, (List.append_nil _).symm, rfl, hown, fun _ => hon⟩

/-! ### Recovery ends within its bound (R181) -/

/-- The most events that recovery logs from one of its steps on, without nesting. -/
def recoveryLeft (s : State) : RecStep → Nat
  | .enter => maxRecovery s.params
  | .disable => 11 + 5 * s.params.recoveryCap + 2 * s.params.timeout
  | .reinitTiming => 10 + 5 * s.params.recoveryCap + 2 * s.params.timeout
  | .reinitMode => 9 + 5 * s.params.recoveryCap + 2 * s.params.timeout
  | .reinitOn => 8 + 5 * s.params.recoveryCap + 2 * s.params.timeout
  | .takeOwner => 7 + 5 * s.params.recoveryCap + 2 * s.params.timeout
  | .takeSda => 6 + 5 * s.params.recoveryCap + 2 * s.params.timeout
  | .takeScl => 5 + 5 * s.params.recoveryCap + 2 * s.params.timeout
  | .lowWrite => 4 + 5 * (s.params.recoveryCap - s.pcnt) + 2 * s.params.timeout
  | .lowDelay => 3 + 5 * (s.params.recoveryCap - s.pcnt) + 2 * s.params.timeout
  | .highWrite => 2 + 5 * (s.params.recoveryCap - s.pcnt) + 2 * s.params.timeout
  | .highDelay => 1 + 5 * (s.params.recoveryCap - s.pcnt) + 2 * s.params.timeout
  | .sample => 5 + 5 * (s.params.recoveryCap - s.pcnt) + 2 * s.params.timeout
  | .release => 4 + 2 * s.params.timeout
  | .restartWrite => 3 + 2 * s.params.timeout
  | .restartPoll => 2 + 2 * s.params.timeout
  | .restartMore => 2 + s.params.timeout + (s.params.timeout - s.cnt)
  | .stopWrite => 2 + s.params.timeout
  | .stopPoll => 1 + s.params.timeout
  | .stopMore => 1 + (s.params.timeout - s.cnt)
  | .exit => 1

/-- Without nesting, a poll of recovery's epilogue ends its wait, or leaves it one poll fewer (R177). -/
theorem epiloguePoll_cases {p : Flag} {first : Bool} {more next : RecStep} {t : State}
    (ht : s.epiloguePoll op p first more next = t) (hnest : s.params.nestedRecovery = false)
    (hdue : (if first then 0 else s.cnt) < s.params.timeout) :
    t.params = s.params ∧
      (t.phase = .busy op (.recovery next) ∨
        (t.phase = .busy op (.recovery more) ∧ t.cnt = (if first then 0 else s.cnt) + 1 ∧
          t.cnt < s.params.timeout)) := by
  rw [State.epiloguePoll_eq] at ht
  subst ht
  generalize (if first then 0 else s.cnt) = c at hdue ⊢
  simp only [hnest, State.poll_params, true_and, Bool.false_eq_true, if_false]
  split_ifs with hbit hlast
  · exact .inl rfl
  · exact .inl rfl
  · exact .inr ⟨rfl, by simp at hlast; omega⟩

/-- Every step of recovery but the last stays in recovery, does not enter it again, and leaves fewer events. -/
theorem InProgress.recovery_advances {r : RecStep} (h : InProgress op (.recovery r) s) (hr : r ≠ .exit) :
    ∃ r', r' ≠ .enter ∧ (recoverStep op r s).phase = .busy op (.recovery r') ∧
      recoveryLeft (recoverStep op r s) r' < recoveryLeft s r := by
  obtain ⟨htimeout, -⟩ := (Params.legal_iff _).1 h.legal
  obtain ⟨-, -, -, -, -, hcnt, hsample, hpulse⟩ := (State.onCourse_recovery h.phase).1 h.course
  have hnest := h.unnested
  cases r with
  | exit => exact absurd rfl hr
  | sample =>
    have := hsample rfl
    simp only [recoverStep, State.recSample_eq]
    split_ifs with hend
    · exact ⟨_, by simp, rfl, by simp only [recoveryLeft, State.pinReadSda_params]; omega⟩
    · exact ⟨_, by simp, rfl, by simp only [recoveryLeft, State.pinReadSda_pcnt, State.pinReadSda_params]; omega⟩
  | restartPoll | restartMore | stopPoll | stopMore =>
    rw [recoverStep]
    generalize ht : s.epiloguePoll _ _ _ _ _ = t
    obtain ⟨hparams, hphase | ⟨hphase, hcnt', hleft⟩⟩ := epiloguePoll_cases ht hnest (by simp_all)
    · exact ⟨_, by simp, hphase, by simp only [recoveryLeft, hparams]; simp at hcnt; omega⟩
    · exact ⟨_, by simp, hphase, by simp only [recoveryLeft, hparams, hcnt']; simp at *; omega⟩
  | _ =>
    refine ⟨_, ?_, rfl, ?_⟩
    · simp
    · simp_all [recoverStep, recoveryLeft, maxRecovery, RecStep.beforePulse, State.pinDir_sda,
        State.pinDir_scl] <;> omega

/-- Recovery, from any of its steps, comes to BUS_FAULT within its bound: it ends once, and begins only at its entry
(R135, R181, R205). -/
theorem InProgress.recovery_responds {r : RecStep} (h : InProgress op (.recovery r) s) :
    ∃ evs d t, Responds op s evs ⟨statusBusFault, d⟩ t ∧ evs.length ≤ recoveryLeft s r ∧
      evs.count .recBegin = (if r = .enter then 1 else 0) ∧ evs.count .recEnd = 1 := by
  induction hN : recoveryLeft s r using Nat.strong_induction_on generalizing s r with
  | _ N ih =>
    have hhost := host_recoverStep op r s
    have hev := recoverStep_ev op r s
    by_cases hr : r = .exit
    · subst hr
      have hnext : InProgress op .busFault (recoverStep op .exit s) := h.next rfl
      exact ⟨_, _, _, hnext.responds_busFault.cons h.runs hev hhost, by simp [← hN, recoveryLeft],
        by simp [recoveryEvent], by simp [recoveryEvent]⟩
    · obtain ⟨r', hr', hp, hlt⟩ := h.recovery_advances hr
      have hnext : InProgress op (.recovery r') (recoverStep op r s) := h.next hp
      obtain ⟨evs, d, t, hresp, hlen, hbegin, hend⟩ := ih _ (hN ▸ hlt) hnext rfl
      refine ⟨_, d, t, hresp.cons h.runs hev hhost, by simp; omega, ?_, ?_⟩
      · rw [List.count_cons, hbegin, if_neg hr']
        cases r <;> simp [recoveryEvent]
      · rw [List.count_cons, hend]
        cases r <;> simp_all [recoveryEvent]

/-! ### A command comes to its response within its bound (R245) -/

/-- The most events that a command's lines log from the `n`-th on. -/
def linesLeft (p : Params) (op : Instr) (n : Nat) : Nat :=
  ∑ k ∈ Finset.Ico n (lastLine op), if (waitOf op k).isSome then p.timeout else 1

theorem linesLeft_zero (p : Params) (op : Instr) : linesLeft p op 0 = maxSuccess p op := by
  cases op <;> simp [linesLeft, lastLine, waitOf, maxSuccess, Finset.sum_range_succ] <;> omega

theorem linesLeft_succ {n : Nat} (p : Params) (hn : n < lastLine op) :
    linesLeft p op n = (if (waitOf op n).isSome then p.timeout else 1) + linesLeft p op (n + 1) :=
  Finset.sum_eq_sum_Ico_succ_bot hn _

/-- The most events that a command logs from a stage of its pseudocode on, recovery apart. -/
def stageLeft (s : State) (op : Instr) : Stage → Nat
  | .line n => linesLeft s.params op n
  | .more n => (s.params.timeout - s.cnt) + linesLeft s.params op (n + 1)
  | _ => 0

/-- How a command ends that may log `left` more events before recovery: SUCCESS and no recovery, or BUS_FAULT and one
(R85, R135, R245). -/
def EndsWithin (p : Params) (op : Instr) (left : Nat) (evs : List Event) (r : Response) : Prop :=
  (r.status = 0b001#3 ∧ evs.length ≤ left ∧ evs.count .recBegin = 0 ∧ evs.count .recEnd = 0) ∨
    (r.status = 0b010#3 ∧ needsInit op = true ∧ evs.length ≤ left + maxRecovery p ∧
      evs.count .recBegin = 1 ∧ evs.count .recEnd = 1)

theorem EndsWithin.cons {p : Params} {left left' : Nat} {evs : List Event} {r : Response} {e : Event}
    (h : EndsWithin p op left evs r) (hb : e ≠ .recBegin) (he : e ≠ .recEnd) (hlt : left < left') :
    EndsWithin p op left' (e :: evs) r := by
  unfold EndsWithin at h ⊢
  rw [List.count_cons_of_ne hb, List.count_cons_of_ne he, List.length_cons]
  rcases h with ⟨hst, hlen, hcount⟩ | ⟨hst, hneed, hlen, hcount⟩
  · exact .inl ⟨hst, by omega, hcount⟩
  · exact .inr ⟨hst, hneed, by omega, hcount⟩

/-- A step at a line of the pseudocode responds SUCCESS, or logs an event that is no marker of recovery and goes on:
to a stage of the pseudocode with fewer events left, or to recovery's entry. -/
inductive LineAdvance (op : Instr) (left : Nat) (s t : State) : Prop
  | responds (d : Byte) (h : t = s.respond statusSuccess d)
  | advances (e : Event) (hev : t.ev = s.ev ++ [e]) (hb : e ≠ .recBegin) (he : e ≠ .recEnd) (st : Stage)
      (hst : ∃ n, st = .line n ∨ st = .more n) (hp : t.phase = .busy op st) (hlt : stageLeft t op st < left)
  | recovers (e : Event) (hev : t.ev = s.ev ++ [e]) (hb : e ≠ .recBegin) (he : e ≠ .recEnd)
      (hneed : needsInit op = true) (hp : t.phase = .busy op (.recovery .enter)) (hlt : 0 < left)

theorem lineAdvance_waitLine {n : Nat} {first : Bool} {p : Flag} {want : Bit} {left : Nat}
    (hw : waitOf op n = some (p, want)) (hdue : (if first then 0 else s.cnt) < s.params.timeout)
    (hleft : left = (s.params.timeout - (if first then 0 else s.cnt)) + linesLeft s.params op (n + 1)) :
    LineAdvance op left s (waitLine p want op n first s) := by
  have hev := waitLine_ev p want op n first s
  rw [waitLine_eq] at hev ⊢
  generalize (if first then 0 else s.cnt) = c at hdue hleft hev ⊢
  split_ifs at hev ⊢ with hbit hlast
  · refine .advances _ hev (by simp) (by simp) (.line (n + 1)) ⟨_, .inl rfl⟩ rfl ?_
    simp only [stageLeft, State.poll_params]
    omega
  · exact .recovers _ hev (by simp) (by simp) (waitOf_inside hw).2 rfl (by omega)
  · refine .advances _ hev (by simp) (by simp) (.more n) ⟨_, .inr rfl⟩ rfl ?_
    simp only [stageLeft, State.poll_params]
    omega

/-- The first poll of a wait, or another line. -/
theorem lineAdvance_line {n : Nat} {t : State} (hl : 0 < s.params.timeout) (hd : inDomain op = true)
    (h : LineStep op n true s t) : LineAdvance op (linesLeft s.params op n) s t := by
  cases h with
  | write w hw hn =>
    refine .advances (.wr w) (by simp) (by simp) (by simp) (.line (n + 1)) ⟨_, .inl rfl⟩ rfl ?_
    rw [linesLeft_succ _ hn]
    simp only [stageLeft, State.goTo_params, State.regWrite_keeps_params]
    split <;> omega
  | wait p want hw =>
    refine lineAdvance_waitLine hw hl ?_
    rw [linesLeft_succ _ (waitOf_inside hw).1, hw]
    rfl
  | read l hop hn =>
    subst hop hn
    refine .advances _ rfl (by simp) (by simp) (.line 3) ⟨_, .inl rfl⟩ rfl ?_
    rw [linesLeft_succ (n := 2) _ (by simp [lastLine])]
    simp [stageLeft, waitOf]
  | respond d => exact .responds d rfl
  | domain hn hnd => simp [hd] at hnd

theorem InProgress.lineAdvance (h : InProgress op st s) (hd : inDomain op = true)
    (hst : ∃ n, st = .line n ∨ st = .more n) : LineAdvance op (stageLeft s op st) s (Machine.busyStep op st s) := by
  obtain ⟨htimeout, -⟩ := (Params.legal_iff _).1 h.legal
  obtain ⟨n, rfl | rfl⟩ := hst
  · exact lineAdvance_line htimeout hd (lineStep_of_wellFormed h.wellFormed n true s)
  · obtain ⟨-, hsome, -, -, hcnt⟩ := (State.onCourse_more h.phase).1 h.course
    obtain ⟨⟨p, want⟩, hw⟩ := Option.isSome_iff_exists.1 hsome
    have hstep : Machine.busyStep op (.more n) s = waitLine p want op n false s :=
      busyStep_wait h.wellFormed hw false s
    rw [hstep]
    exact lineAdvance_waitLine hw hcnt rfl

/-- At a stage of the pseudocode the peripheral owns the lines, and in a bus command it is enabled. -/
theorem InProgress.enabled (h : InProgress op st s) (hst : ∃ n, st = .line n ∨ st = .more n) :
    s.pinOwner = .periph ∧ (needsInit op = true → s.on = true) := by
  obtain ⟨n, rfl | rfl⟩ := hst
  · obtain ⟨-, -, hown, hon⟩ := (State.onCourse_line h.phase).1 h.course
    exact ⟨hown, hon⟩
  · obtain ⟨-, -, hown, hon, -⟩ := (State.onCourse_more h.phase).1 h.course
    exact ⟨hown, hon⟩

/-- A command in its domain, from any stage of its pseudocode, comes to its response within its bound. -/
theorem InProgress.responds (h : InProgress op st s) (hd : inDomain op = true)
    (hst : ∃ n, st = .line n ∨ st = .more n) :
    ∃ evs r t, Responds op s evs r t ∧ EndsWithin s.params op (stageLeft s op st) evs r := by
  induction hN : stageLeft s op st using Nat.strong_induction_on generalizing s st with
  | _ N ih =>
    have hhost := host_busyStep h.busyStep
    have hparams := params_busyStep h.busyStep
    have hrun := h.runs
    cases h.lineAdvance hd hst with
    | responds d ht =>
      rw [ht] at hrun
      obtain ⟨hown, hon⟩ := h.enabled hst
      exact ⟨[], ⟨statusSuccess, d⟩, s.respond statusSuccess d,
        ⟨hrun, rfl, h.fault, rfl, (List.append_nil _).symm, rfl, hown, hon⟩, .inl ⟨rfl, Nat.zero_le _, rfl, rfl⟩⟩
    | advances e hev hb he st' hst' hp hlt =>
      obtain ⟨evs, r, t, hresp, hends⟩ := ih _ (hN ▸ hlt) (h.next hp) hst' rfl
      exact ⟨_, r, t, hresp.cons hrun hev hhost, hN ▸ (hparams ▸ hends).cons hb he hlt⟩
    | recovers e hev hb he hneed hp hlt =>
      obtain ⟨evs, d, t, hresp, hlen, hbegin, hend⟩ := (h.next hp).recovery_responds
      refine ⟨_, _, t, hresp.cons hrun hev hhost, EndsWithin.cons (left := 0) (.inr ?_) hb he (hN ▸ hlt)⟩
      exact ⟨rfl, hneed, by simpa [recoveryLeft, hparams] using hlen, by simpa using hbegin, hend⟩

end

theorem decode_encode {i : Instr} (hi : i.wellFormed = true) : decode (encode i) = some i := by
  cases i with
  | recover => cases hi
  | write b => revert b; decide
  | read l => revert l; decide
  | bcdenc n => revert n; decide
  | bcddec b => revert b; decide
  | _ => decide

/-- Settles O47: after its acceptance the command is in progress at its first line, with R245's bound left. -/
theorem commandCompletes : Obligations.CommandCompletes := by
  intro i s rest hi hd hp hf hl hnest hon hown hh hq
  have haccept := Runs.accept hp hf hh (decode_encode hi) hon
  have hprog : InProgress i (.line 0) (({ s with host := rest } : State).goTo i (.line 0)) :=
    ⟨rfl, hf, hq, hl, hnest, (State.onCourse_line rfl).2 ⟨hi, Nat.zero_le _, hown, hon⟩⟩
  obtain ⟨evs, r, t, hresp, hends⟩ := hprog.responds hd ⟨0, .inl rfl⟩
  refine ⟨evs.length, t, evs, r, (haccept.trans hresp.runs).cast (by omega) rfl, hresp.phase, hresp.fault, hresp.resp,
    hresp.ev, rfl, hresp.host, hresp.pinOwner, hresp.on, ?_⟩
  simpa [EndsWithin, stageLeft, linesLeft_zero, maxFaulting] using hends

end Sys2Proof.Machine
end

section
namespace Sys2Proof.Machine

/-! ### Reset and the idle block (R22, R48) -/

/-- Settles O8: each value is read off the reset state. -/
theorem resetValues : Obligations.ResetValues := by
  rintro p h e s rfl
  exact ⟨rfl, rfl, rfl, rfl, rfl, rfl, rfl, rfl, rfl, rfl, rfl, rfl, rfl⟩

theorem step_idle_hold {s : State} {rest : List HostMove} (hf : s.fault = none) (hp : s.phase = .idle)
    (hh : s.host = .hold :: rest) : step s = .next { s with host := rest } := by
  simp [step, turn, State.isStopped, hf, hp, idleTurn, hh]

/-- Settles O15: the two cases of the idle block's turn that run no command and reset nothing. -/
theorem idleBlockWaits : Obligations.IdleBlockWaits :=
  ⟨fun _ hp hf hh => step_idle_waits hf hp hh, fun _ _ hp hf hh => step_idle_hold hf hp hh⟩

/-! ### Runs keep what steps keep (R6, R23, R24) -/

/-- What every step keeps holds after every run from a state it holds of. -/
theorem Runs.keeps {P : State → Prop} (hP : ∀ s t, P s → step s = .next t → P t) {n : Nat} {s t : State}
    (h : Runs n s t) (hs : P s) : P t := by
  induction n generalizing s with
  | zero => cases h; exact hs
  | succ n ih =>
    simp only [Runs, Host.Core.run] at h
    split at h
    · next u hstep => exact ih h (hP s u hs hstep)
    · cases h
    · cases h

theorem params_step {s t : State} (h : step s = .next t) : t.params = s.params := by
  cases machineStep_of_step h with
  | reset | waits => rfl
  | acts hs h =>
    cases h with
    | raises | accepts => rfl
    | runs hp hf h => exact params_busyStep (s := { s with host := hs }) h

/-- Every run from the reset state of legal parameters keeps the invariant and those parameters. -/
theorem Runs.inv_of_reset {p : Params} {h : List HostMove} {e : Env} {n : Nat} {t : State} (hl : p.legal = true)
    (hrun : Runs n (State.afterReset p h e) t) : t.inv = true ∧ t.params = p :=
  hrun.keeps (P := fun s => s.inv = true ∧ s.params = p)
    (fun s u hs hstep => ⟨stepKeepsInvariant s u hs.1 hstep, (params_step hstep).trans hs.2⟩)
    ⟨inv_afterReset hl h e, rfl⟩

/-- Settles O13: the counters' bounds are part of the invariant, and no step changes the parameters. -/
theorem countersStayBounded : Obligations.CountersStayBounded := by
  intro p h e n t hl hrun
  obtain ⟨hinv, rfl⟩ := Runs.inv_of_reset hl hrun
  obtain ⟨-, -, -, hbounds⟩ := (State.inv_iff t).1 hinv
  obtain ⟨hcnt, hpcnt, -, -⟩ := (State.inBounds_iff t).1 hbounds
  exact ⟨hcnt, hpcnt⟩

end Sys2Proof.Machine
end

section
namespace Sys2Proof.Machine

/-! ### The fields no rule reads (R28, R31, R38, D14, D42) -/

@[simp] theorem State.forgetCopies_phase (s : State) : s.forgetCopies.phase = s.phase := rfl
@[simp] theorem State.forgetCopies_cnt (s : State) : s.forgetCopies.cnt = s.cnt := rfl
@[simp] theorem State.forgetCopies_pcnt (s : State) : s.forgetCopies.pcnt = s.pcnt := rfl
@[simp] theorem State.forgetCopies_resp (s : State) : s.forgetCopies.resp = s.resp := rfl
@[simp] theorem State.forgetCopies_fault (s : State) : s.forgetCopies.fault = s.fault := rfl
@[simp] theorem State.forgetCopies_on (s : State) : s.forgetCopies.on = s.on := rfl
@[simp] theorem State.forgetCopies_params (s : State) : s.forgetCopies.params = s.params := rfl
@[simp] theorem State.forgetCopies_host (s : State) : s.forgetCopies.host = s.host := rfl
@[simp] theorem State.forgetCopies_env (s : State) : s.forgetCopies.env = s.env := rfl
@[simp] theorem State.forgetCopies_isStopped (s : State) : s.forgetCopies.isStopped = s.isStopped := rfl

/-- The operation reads none of those fields: cutting them down before it or only after it is the same. -/
def IgnoresCopies (f : State → State) : Prop := ∀ s, (f s.forgetCopies).forgetCopies = (f s).forgetCopies

theorem IgnoresCopies.comp {f g : State → State} (hg : IgnoresCopies g) (hf : IgnoresCopies f) :
    IgnoresCopies (g ∘ f) := fun s =>
  calc (g (f s.forgetCopies)).forgetCopies
      = (g (f s.forgetCopies).forgetCopies).forgetCopies := (hg _).symm
    _ = (g (f s).forgetCopies).forgetCopies := by rw [hf s]
    _ = (g (f s)).forgetCopies := hg _

theorem ignoresCopies_goTo (i : Instr) (st : Stage) : IgnoresCopies (State.goTo i st) := fun _ => rfl

theorem ignoresCopies_regWrite (w : RegWr) : IgnoresCopies (State.regWrite w) := by
  intro s
  cases w with
  | on v => cases v <;> rfl
  | _ => rfl

/-- A poll, and what a wait writes after it: the poll's copies are among the fields cut down. -/
theorem forgetCopies_polled (p : Flag) (c : Nat) (ph : Phase) (s : State) :
    ({ (s.forgetCopies.poll p).2 with cnt := c, phase := ph } : State).forgetCopies =
      ({ (s.poll p).2 with cnt := c, phase := ph } : State).forgetCopies := by
  simp [State.poll, State.notePoll_eq, State.log, State.forgetCopies]

theorem ignoresCopies_epiloguePoll (i : Instr) (p : Flag) (first : Bool) (more next : RecStep) :
    IgnoresCopies (State.epiloguePoll i p first more next) := fun s => by
  rw [State.epiloguePoll_eq, State.epiloguePoll_eq]
  exact forgetCopies_polled ..

theorem ignoresCopies_recSample (i : Instr) : IgnoresCopies (State.recSample i) := fun s => by
  rw [State.recSample_eq, State.recSample_eq]
  rfl

theorem ignoresCopies_recoverStep (i : Instr) (r : RecStep) : IgnoresCopies (recoverStep i r) := by
  cases r with
  | sample => exact ignoresCopies_recSample i
  | restartPoll | restartMore | stopPoll | stopMore => exact ignoresCopies_epiloguePoll i _ _ _ _
  | _ => exact fun _ => rfl

/-! ### Pseudocode lines -/

/-- A line of pseudocode reads none of those fields, in whatever command it stands. -/
def Action.IgnoresCopies (a : Action) : Prop := ∀ i n first, Machine.IgnoresCopies (a i n first)

theorem ignoresCopies_writeLine (w : RegWr) : Action.IgnoresCopies (writeLine w) := fun i n _ =>
  (ignoresCopies_goTo i (.line (n + 1))).comp (ignoresCopies_regWrite w)

theorem ignoresCopies_waitLine (p : Flag) (want : Bit) : Action.IgnoresCopies (waitLine p want) := by
  intro i n first s
  rw [waitLine_eq, waitLine_eq]
  exact forgetCopies_polled ..

theorem ignoresCopies_ackSeq (v : Bit) : ∀ a ∈ ackSeq v, Action.IgnoresCopies a := by
  simp [ackSeq, ignoresCopies_writeLine, ignoresCopies_waitLine]

theorem ignoresCopies_linesOf (i : Instr) : ∀ a ∈ linesOf i, Action.IgnoresCopies a := by
  have htiming : Action.IgnoresCopies cfgTimingLine := fun _ _ _ _ => rfl
  have hmode : Action.IgnoresCopies cfgModeLine := fun _ _ _ _ => rfl
  have htrn (b : Byte) : Action.IgnoresCopies (trnLine b) := fun _ _ _ _ => rfl
  have hrcv : Action.IgnoresCopies readRcvLine := fun _ _ _ _ => rfl
  cases i with
  | ack | nack => exact ignoresCopies_ackSeq _
  | read l =>
    simp only [linesOf, List.forall_mem_append, List.forall_mem_cons]
    exact ⟨⟨ignoresCopies_writeLine _, ignoresCopies_waitLine _ _, hrcv, by simp⟩, ignoresCopies_ackSeq _⟩
  | _ => simp [linesOf, ignoresCopies_writeLine, ignoresCopies_waitLine, *]

theorem ignoresCopies_lastOf (i : Instr) : Action.IgnoresCopies (lastOf i) := by
  intro _ _ _ s
  cases i with
  | bcdenc n => simp only [lastOf, bcdencLine]; split <;> rfl
  | bcddec b => simp only [lastOf, bcddecLine]; split <;> rfl
  | _ => rfl

theorem ignoresCopies_busyStep (i : Instr) (st : Stage) : IgnoresCopies (busyStep i st) := by
  have hline (n : Nat) : Action.IgnoresCopies ((linesOf i).getD n (lastOf i)) := by
    rcases Nat.lt_or_ge n (linesOf i).length with h | h
    · rw [List.getD_eq_getElem _ _ h]
      exact ignoresCopies_linesOf i _ (List.getElem_mem h)
    · rw [List.getD_eq_default _ _ h]
      exact ignoresCopies_lastOf i
  cases st with
  | line n => exact hline n i n true
  | more n => exact hline n i n false
  | recovery r => exact ignoresCopies_recoverStep i r
  | busFault => exact fun _ => rfl

/-! ### Commands, turns and steps -/

theorem ignoresCopies_accept (i : Instr) : IgnoresCopies (State.accept i) := by
  intro s
  obtain ⟨hn, hon, h⟩ | ⟨hon, h⟩ := s.accept_cases i
  · rw [State.accept, if_pos (by simp [hn, hon]), h]
    rfl
  · rw [State.accept, if_neg (by rcases hon with hon | hon <;> simp [hon]), h]
    rfl

theorem State.isStopped_eq_false (s : State) : s.isStopped = false ↔ s.phase ≠ .faulted ∧ s.fault = none := by
  simp [State.isStopped]

theorem forgetOutcome_command (i : Instr) (s : State) :
    forgetOutcome (command i (linesOf i) (lastOf i) s.forgetCopies) =
      forgetOutcome (command i (linesOf i) (lastOf i) s) := by
  cases hs : s.isStopped with
  | true => rw [command_stopped hs, command_stopped (s := s.forgetCopies) hs]; rfl
  | false =>
    obtain ⟨hnf, hf⟩ := s.isStopped_eq_false.1 hs
    cases hp : s.phase with
    | faulted => exact absurd hp hnf
    | idle =>
      rw [command_idle hf hp, command_idle (s := s.forgetCopies) hf hp]
      exact congrArg Host.Outcome.next (ignoresCopies_accept i s)
    | busy op st =>
      by_cases hop : op = i
      · subst hop
        rw [command_busy hf hp, command_busy (s := s.forgetCopies) hf hp]
        exact congrArg Host.Outcome.next (ignoresCopies_busyStep op st s)
      · rw [command_overlap hf hp hop, command_overlap (s := s.forgetCopies) hf hp hop]
        rfl

theorem forgetOutcome_execRecover (s : State) :
    forgetOutcome (execRecover s.forgetCopies) = forgetOutcome (execRecover s) := by
  cases hs : s.isStopped with
  | true => simp [execRecover, hs]
  | false =>
    cases hp : s.phase with
    | idle | faulted => simp only [execRecover, State.forgetCopies_isStopped, State.forgetCopies_phase, hs, hp]; rfl
    | busy op st =>
      cases st with
      | recovery r =>
        have hf := (s.isStopped_eq_false.1 hs).2
        rw [execRecover_recovery hf hp, execRecover_recovery (s := s.forgetCopies) hf hp]
        exact congrArg Host.Outcome.next (ignoresCopies_recoverStep op r s)
      | line | more | busFault =>
        simp only [execRecover, State.forgetCopies_isStopped, State.forgetCopies_phase, hs, hp]; rfl

theorem forgetOutcome_exec (i : Instr) (s : State) :
    forgetOutcome (exec i s.forgetCopies) = forgetOutcome (exec i s) := by
  cases hi : i.wellFormed with
  | true => rw [exec_eq_command hi, exec_eq_command hi, forgetOutcome_command]
  | false =>
    cases i with
    | recover => exact forgetOutcome_execRecover s
    | _ => cases hi

/-- A turn with its state so cut down. -/
def Turn.forgetCopies : Turn → Turn
  | .run i s => .run i s.forgetCopies
  | .done s => .done s.forgetCopies
  | .stopped c => .stopped c

/-- The outcome of carrying out a turn. -/
def Turn.outcome : Turn → Host.Outcome State Fault Refusal
  | .run i s => exec i s
  | .done s => .next s
  | .stopped c => .fault (.stopped c)

theorem step_eq_outcome (s : State) : step s = (turn s).outcome := by
  unfold step
  cases turn s <;> rfl

theorem forgetOutcome_outcome (τ : Turn) : forgetOutcome τ.forgetCopies.outcome = forgetOutcome τ.outcome := by
  cases τ with
  | run i s => exact forgetOutcome_exec i s
  | done | stopped => rfl

theorem forgetCopies_offered (w : Word) (s : State) :
    (offered w s.forgetCopies).forgetCopies = (offered w s).forgetCopies := by
  unfold offered
  cases decode w <;> rfl

theorem forgetCopies_attemptTurn (done left : List Word) (acc : Status) (rest : List HostMove) (s : State) :
    (attemptTurn done left acc rest s.forgetCopies).forgetCopies =
      (attemptTurn done left acc rest s).forgetCopies := by
  rcases left with _ | ⟨w, ws⟩
  · rcases done with _ | ⟨w, ws⟩
    · rfl
    · cases h : successful (combineResponse (w :: ws) acc s.resp) with
      | true => simp only [attemptTurn, State.forgetCopies_resp, h]; rfl
      | false =>
        simp only [attemptTurn, State.forgetCopies_resp, h]
        exact forgetCopies_offered w { s with host := .attempt [w] ws statusNotYet :: rest }
  · exact forgetCopies_offered w
      { s with host := .attempt (done ++ [w]) ws (combineResponse done acc s.resp) :: rest }

theorem forgetCopies_idleTurn (s : State) : (idleTurn s.forgetCopies).forgetCopies = (idleTurn s).forgetCopies := by
  simp only [idleTurn, State.forgetCopies_host]
  rcases s.host with _ | ⟨w | w | _ | _ | ⟨done, left, acc⟩, rest⟩
  case cons.issue | cons.offer => exact forgetCopies_offered w { s with host := rest }
  case cons.attempt => exact forgetCopies_attemptTurn done left acc rest s
  all_goals rfl

theorem forgetCopies_busyTurn (op : Instr) (st : Stage) (s : State) :
    (busyTurn op st s.forgetCopies).forgetCopies = (busyTurn op st s).forgetCopies := by
  simp only [busyTurn, State.forgetCopies_host]
  rcases s.host with _ | ⟨_ | _ | _ | _ | _, rest⟩ <;> rfl

theorem forgetCopies_stoppedTurn (s : State) :
    (stoppedTurn s.forgetCopies).forgetCopies = (stoppedTurn s).forgetCopies := by
  simp only [stoppedTurn, State.forgetCopies_host]
  rcases s.host with _ | ⟨_ | _ | _ | _ | _, rest⟩ <;> rfl

theorem forgetCopies_turn (s : State) : (turn s.forgetCopies).forgetCopies = (turn s).forgetCopies := by
  cases hs : s.isStopped with
  | true => simpa [turn, hs] using forgetCopies_stoppedTurn s
  | false =>
    cases hp : s.phase with
    | idle => simpa [turn, hs, hp] using forgetCopies_idleTurn s
    | busy op st => simpa [turn, hs, hp] using forgetCopies_busyTurn op st s
    | faulted => simpa [turn, hs, hp] using forgetCopies_stoppedTurn s

/-- Settles O52: neither the choice of the turn nor carrying it out reads those fields. -/
theorem copiesNeverRead : Obligations.CopiesNeverRead := fun s =>
  calc forgetOutcome (step s.forgetCopies)
      = forgetOutcome (turn s.forgetCopies).forgetCopies.outcome := by
        rw [step_eq_outcome, forgetOutcome_outcome]
    _ = forgetOutcome (turn s).forgetCopies.outcome := by rw [forgetCopies_turn]
    _ = forgetOutcome (step s) := by rw [forgetOutcome_outcome, step_eq_outcome]

end Sys2Proof.Machine
end

section
namespace Sys2Proof.Machine

/-! ### The address bytes (R54, R87) -/

/-- A direction bit below the device address: the address counts twice, the bit once. -/
theorem toNat_append_bit (a : BitVec 7) (d : BitVec 1) : (a ++ d).toNat = 2 * a.toNat + d.toNat := by
  rw [BitVec.toNat_append, ← Nat.shiftLeft_add_eq_or_of_lt d.isLt, Nat.shiftLeft_eq]
  omega

/-- Settles O53: the direction bit is 0 in the one byte and 1 in the other. -/
theorem addressBytes : Obligations.AddressBytes := fun p =>
  ⟨toNat_append_bit p.devAddr7 0#1, toNat_append_bit p.devAddr7 1#1⟩

end Sys2Proof.Machine
end

section
namespace Sys2Proof.Machine

/-! ### A command word's fields, as numbers (R70) -/

theorem toNat_append_eq_add {m n : Nat} (x : BitVec m) (y : BitVec n) :
    (x ++ y).toNat = x.toNat * 2 ^ n + y.toNat := by
  rw [BitVec.toNat_append, ← Nat.shiftLeft_add_eq_or_of_lt y.isLt, Nat.shiftLeft_eq]

theorem toNat_wordOf (op : BitVec 4) (l : Bit) (d : Byte) :
    (wordOf op l d).toNat = op.toNat * 4096 + l.toNat * 256 + d.toNat := by
  calc (wordOf op l d).toNat
      = (op ++ 0#3 ++ BitVec.ofBool l).toNat * 2 ^ 8 + d.toNat := toNat_append_eq_add _ d
    _ = ((op ++ 0#3).toNat * 2 ^ 1 + l.toNat) * 2 ^ 8 + d.toNat := by
        rw [toNat_append_eq_add, BitVec.toNat_ofBool]
    _ = op.toNat * 4096 + l.toNat * 256 + d.toNat := by
        rw [toNat_append_eq_add, BitVec.toNat_ofNat]; omega

theorem toNat_fieldOp (w : Word) : (fieldOp w).toNat = w.toNat / 4096 := by
  have := w.isLt
  simp only [fieldOp, BitVec.extractLsb'_toNat, Nat.shiftRight_eq_div_pow]
  omega

theorem toNat_fieldRes (w : Word) : (fieldRes w).toNat = w.toNat / 512 % 8 := by
  simp [fieldRes, Nat.shiftRight_eq_div_pow]

theorem toNat_fieldL (w : Word) : (fieldL w).toNat = w.toNat / 256 % 2 := by
  rw [fieldL, BitVec.getLsbD, Nat.toNat_testBit]

theorem toNat_fieldD (w : Word) : (fieldD w).toNat = w.toNat % 256 := by
  simp [fieldD]

theorem wordParts_eq_fields (w : Word) :
    wordParts w = ((fieldOp w).toNat, (fieldRes w).toNat, (fieldL w).toNat, (fieldD w).toNat) := by
  rw [toNat_fieldOp, toNat_fieldRes, toNat_fieldL, toNat_fieldD, wordParts]

section
variable (op : BitVec 4) (l : Bit) (d : Byte)

@[simp] theorem fieldOp_wordOf : fieldOp (wordOf op l d) = op := by
  apply BitVec.eq_of_toNat_eq
  have := l.toNat_le
  rw [toNat_fieldOp, toNat_wordOf]
  omega

@[simp] theorem fieldRes_wordOf : fieldRes (wordOf op l d) = 0#3 := by
  apply BitVec.eq_of_toNat_eq
  have := l.toNat_le
  rw [toNat_fieldRes, toNat_wordOf, BitVec.toNat_ofNat]
  omega

@[simp] theorem fieldL_wordOf : fieldL (wordOf op l d) = l := by
  have hl := l.toNat_le
  have hbit : (wordOf op l d).toNat / 256 % 2 = l.toNat := by rw [toNat_wordOf]; omega
  rw [fieldL, BitVec.getLsbD, Nat.testBit_eq_decide_div_mod_eq, hbit]
  cases l <;> rfl

@[simp] theorem fieldD_wordOf : fieldD (wordOf op l d) = d := by
  apply BitVec.eq_of_toNat_eq
  rw [toNat_fieldD, toNat_wordOf]
  omega

end

theorem wordOf_fields {w : Word} (hres : fieldRes w = 0#3) : wordOf (fieldOp w) (fieldL w) (fieldD w) = w := by
  apply BitVec.eq_of_toNat_eq
  have hres' : w.toNat / 512 % 8 = 0 := by rw [← toNat_fieldRes, hres]; rfl
  rw [toNat_wordOf, toNat_fieldOp, toNat_fieldL, toNat_fieldD]
  omega

/-! ### Decode and encode are inverse (R72, R76, R77) -/

@[simp] theorem decodeTable_wordOf (op : BitVec 4) (l : Bit) (d : Byte) :
    decodeTable (wordOf op l d) = decodeOp op l d := by
  simp [decodeTable]

theorem decodeTable_encode (i : Instr) : decodeTable (encode i) = some i := by
  cases i <;> simp [encode, decodeOp, plainForm, byteForm, flagForm]

@[simp] theorem plainForm_eq_some {l : Bit} {d : Byte} {i j : Instr} :
    plainForm l d j = some i ↔ (l = false ∧ d = 0#8) ∧ j = i := by
  simp [plainForm]

@[simp] theorem byteForm_eq_some {l : Bit} {d : Byte} {f : Byte → Instr} {i : Instr} :
    byteForm l d f = some i ↔ l = false ∧ f d = i := by
  simp [byteForm]

@[simp] theorem flagForm_eq_some {l : Bit} {d : Byte} {f : Bit → Instr} {i : Instr} :
    flagForm l d f = some i ↔ d = 0#8 ∧ f l = i := by
  simp [flagForm]

theorem encode_of_decodeOp {op : BitVec 4} {l : Bit} {d : Byte} {i : Instr} (h : decodeOp op l d = some i) :
    encode i = wordOf op l d := by
  have hop : BitVec.ofNat 4 op.toNat = op := by simp
  unfold decodeOp at h
  split at h
  case h_13 => cases h
  all_goals
    rename_i hcode
    rw [hcode] at hop
    simp only [plainForm_eq_some, byteForm_eq_some, flagForm_eq_some] at h
    subst hop
    obtain ⟨h, rfl⟩ := h
    simp only [encode, h]

/-- Settles O3: a word with no reserved bit is put together from its fields, and its command encodes to them. -/
theorem encodeOfDecode : Obligations.EncodeOfDecode := by
  intro w i h
  rw [decodeTable] at h
  split at h
  · next hres => rw [encode_of_decodeOp h, wordOf_fields hres]
  · cases h

/-- Settles O2: the fields of an encoded command are those of its row and its operand. -/
theorem decodeOfEncode : Obligations.DecodeOfEncode := fun i =>
  ⟨decodeTable_encode i, by rw [decode, decodeTable_encode, Option.filter_some]⟩

/-- Settles O1: the nine words are closed, and the decoder is run on each. -/
theorem writtenWordsDecode : Obligations.WrittenWordsDecode := by
  unfold Obligations.WrittenWordsDecode
  decide

theorem decode_eq_some_iff {w : Word} {i : Instr} : decode w = some i ↔ encode i = w ∧ i.wellFormed = true := by
  rw [decode, Option.filter_eq_some_iff]
  exact and_congr_left fun _ => ⟨encodeOfDecode w i, fun h => h ▸ decodeTable_encode i⟩

/-! ### The pseudocode of R76, and the illegal words of R73 and R74 -/

theorem toNat_eq_zero_iff {n : Nat} (x : BitVec n) : x.toNat = 0 ↔ x = 0#n := by
  rw [← BitVec.toNat_inj, BitVec.toNat_ofNat, Nat.zero_mod]

theorem decode_eq_decodeByRule (w : Word) : decode w = decodeByRule w := by
  rw [decode, decodeTable, decodeByRule, wordParts_eq_fields]
  generalize fieldOp w = op, fieldRes w = res, fieldL w = l, fieldD w = d
  simp only [ne_eq, toNat_eq_zero_iff, ite_not]
  split
  · unfold decodeOp
    split
    case h_13 => simp_all; omega
    all_goals
      rename_i hcode
      rw [hcode]
      cases l <;> by_cases hd : d = 0#8 <;> simp [plainForm, byteForm, flagForm, hd, Instr.wellFormed]
  · rfl

theorem decodeByRule_eq_none_iff (w : Word) : decodeByRule w = none ↔ illegalWord w = true := by
  simp only [decodeByRule, illegalWord, decide_eq_true_eq]
  generalize wordParts w = parts
  obtain ⟨op, res, l, d⟩ := parts
  dsimp only
  split_ifs <;> simp <;> omega

/-! ### How many words are legal (R76) -/

/-- The commands the host may issue, in the order of R76's count. -/
def legalCommands : List Instr :=
  [.init, .start, .stop, .restart, .waitidle, .ack, .nack] ++ ((List.finRange 256).map fun b => .write (.ofFin b)) ++
    [.read false, .read true] ++ ((List.finRange 256).map fun n => .bcdenc (.ofFin n)) ++
    (List.finRange 256).map fun b => .bcddec (.ofFin b)

theorem length_legalCommands : legalCommands.length = 7 + 256 + 2 + 256 + 256 := by
  simp [legalCommands]

theorem mem_legalCommands {i : Instr} : i ∈ legalCommands ↔ i.wellFormed = true := by
  have hbyte (b : Byte) : ∃ n : Fin 256, BitVec.ofFin n = b := ⟨b.toFin, rfl⟩
  cases i <;> simp [legalCommands, Instr.wellFormed, hbyte]

theorem nodup_legalCommands : legalCommands.Nodup := by
  have hbyte {f : Byte → Instr} (hf : f.Injective) : ((List.finRange 256).map fun n => f (.ofFin n)).Nodup :=
    (List.nodup_finRange 256).map (hf.comp fun _ _ h => BitVec.ofFin.inj h)
  have hwrite := hbyte (f := .write) fun _ _ h => Instr.write.inj h
  have hbcdenc := hbyte (f := .bcdenc) fun _ _ h => Instr.bcdenc.inj h
  have hbcddec := hbyte (f := .bcddec) fun _ _ h => Instr.bcddec.inj h
  have hdisjoint (n : Fin 256) (i : Instr)
      (hi : (∃ b, .bcdenc (.ofFin b) = i) ∨ ∃ b, .bcddec (.ofFin b) = i) : ¬ .write (.ofFin n) = i := by
    rcases hi with ⟨b, rfl⟩ | ⟨b, rfl⟩ <;> simp
  simpa [legalCommands, List.nodup_append, hwrite, hbcdenc, hbcddec] using hdisjoint

theorem encode_injective : Function.Injective encode := fun i j h =>
  Option.some.inj ((decodeTable_encode i).symm.trans (h ▸ decodeTable_encode j))

/-- The legal words, as numbers, are the encodings of the commands the host may issue. -/
theorem legalWords_perm :
    ((List.range 65536).filter fun n => (decode (BitVec.ofNat 16 n)).isSome).Perm
      (legalCommands.map fun i => (encode i).toNat) := by
  refine (List.perm_ext_iff_of_nodup (List.nodup_range.filter _) ?_).2 fun n => ?_
  · exact nodup_legalCommands.map fun i j h => encode_injective (BitVec.eq_of_toNat_eq h)
  · simp only [List.mem_filter, List.mem_range, List.mem_map, Option.isSome_iff_exists, decode_eq_some_iff,
      mem_legalCommands]
    constructor
    · rintro ⟨hn, i, henc, hi⟩
      exact ⟨i, hi, by rw [henc, BitVec.toNat_ofNat, Nat.mod_eq_of_lt hn]⟩
    · rintro ⟨i, hi, rfl⟩
      exact ⟨(encode i).isLt, i, by simp, hi⟩

/-- Settles O4: the decoder agrees with the rule by cases on the operation code; the legal words are as many as the
commands the host may issue. -/
theorem decodeIsRuleR76 : Obligations.DecodeIsRuleR76 := by
  refine ⟨decode_eq_decodeByRule, ?_⟩
  rw [List.countP_eq_length_filter, legalWords_perm.length_eq, List.length_map, length_legalCommands]

/-- Settles O18: the decoder is the rule's pseudocode, which answers none exactly on those words. -/
theorem illegalWordFaults : Obligations.IllegalWordFaults := by
  have hnone (w : Word) : decode w = none ↔ illegalWord w = true := by
    rw [decode_eq_decodeByRule, decodeByRule_eq_none_iff]
  refine ⟨hnone, fun s w rest hp hf hh hw => ?_⟩
  rw [step_idle_word hf hp hh, (hnone w).2 hw]
  rfl

/-! ### The rows of the opcode table -/

section
variable (v w : Word)

theorem fieldOp_and : fieldOp (v &&& w) = fieldOp v &&& fieldOp w := BitVec.extractLsb'_and
theorem fieldRes_and : fieldRes (v &&& w) = fieldRes v &&& fieldRes w := BitVec.extractLsb'_and
theorem fieldL_and : fieldL (v &&& w) = (fieldL v && fieldL w) := BitVec.getLsbD_and
theorem fieldD_and : fieldD (v &&& w) = fieldD v &&& fieldD w := BitVec.extractLsb'_and

end

theorem tableRow : ∀ i : Instr, encode i &&& rowMask i = rowMatch i
  | .init => Laws.TableRow.init
  | .start => Laws.TableRow.start
  | .stop => Laws.TableRow.stop
  | .restart => Laws.TableRow.restart
  | .waitidle => Laws.TableRow.waitidle
  | .ack => Laws.TableRow.ack
  | .nack => Laws.TableRow.nack
  | .write b => Laws.TableRow.write b
  | .read l => Laws.TableRow.read l
  | .recover => Laws.TableRow.recover
  | .bcdenc n => Laws.TableRow.bcdenc n
  | .bcddec b => Laws.TableRow.bcddec b

/-- A row's match tells its mask: the operation codes of the rows differ. -/
theorem rowMask_eq_of_rowMatch {i j : Instr} (h : rowMatch j = rowMatch i) : rowMask j = rowMask i := by
  have hmask (k : Instr) :
      rowMask k = if rowMatch k = 0x7000#16 ∨ rowMatch k = 0xA000#16 ∨ rowMatch k = 0xB000#16 then 0xFF00#16
        else if rowMatch k = 0x8000#16 then 0xFEFF#16 else 0xFFFF#16 := by
    cases k <;> rfl
  rw [hmask, hmask, h]

/-- A row whose mask holds `OP` and `RES` fixes them in its words; a mask that holds `L` or `D` fixes it at 0. -/
theorem wordOf_of_row {w m : Word} {op : BitVec 4} (hmop : fieldOp m = BitVec.allOnes 4)
    (hmres : fieldRes m = BitVec.allOnes 3) (h : w &&& m = wordOf op false 0#8) :
    wordOf op (fieldL w) (fieldD w) = w ∧ (fieldL m = true → fieldL w = false) ∧
      (fieldD m = BitVec.allOnes 8 → fieldD w = 0#8) := by
  have hop := congrArg fieldOp h
  have hres := congrArg fieldRes h
  rw [fieldOp_and, hmop, BitVec.and_allOnes, fieldOp_wordOf] at hop
  rw [fieldRes_and, hmres, BitVec.and_allOnes, fieldRes_wordOf] at hres
  refine ⟨hop ▸ wordOf_fields hres, fun hm => ?_, fun hm => ?_⟩
  · simpa [fieldL_and, hm] using congrArg fieldL h
  · simpa only [fieldD_and, hm, BitVec.and_allOnes, fieldD_wordOf] using congrArg fieldD h

theorem exists_encode_of_matches {w : Word} {i : Instr} (h : w &&& rowMask i = rowMatch i) :
    ∃ j, encode j = w ∧ rowMatch j = rowMatch i := by
  have hbyte {op : BitVec 4} (h : w &&& 0xFF00#16 = wordOf op false 0#8) : wordOf op false (fieldD w) = w := by
    obtain ⟨hw, hl, -⟩ := wordOf_of_row (by decide) (by decide) h
    rwa [hl (by decide)] at hw
  have hflag {op : BitVec 4} (h : w &&& 0xFEFF#16 = wordOf op false 0#8) : wordOf op (fieldL w) 0#8 = w := by
    obtain ⟨hw, -, hd⟩ := wordOf_of_row (by decide) (by decide) h
    rwa [hd (by decide)] at hw
  have hplain (hm : rowMask i = BitVec.allOnes 16) (henc : encode i = rowMatch i) :
      ∃ j, encode j = w ∧ rowMatch j = rowMatch i :=
    ⟨i, by rw [henc, ← h, hm, BitVec.and_allOnes], rfl⟩
  cases i with
  | write => exact ⟨.write (fieldD w), hbyte h, rfl⟩
  | bcdenc => exact ⟨.bcdenc (fieldD w), hbyte h, rfl⟩
  | bcddec => exact ⟨.bcddec (fieldD w), hbyte h, rfl⟩
  | read => exact ⟨.read (fieldL w), hflag h, rfl⟩
  | _ => exact hplain (by decide) (by decide)

/-- Settles O5: a word that matches a row encodes a command of it, and every command's encoding matches its row. -/
theorem tableRowsDecode : Obligations.TableRowsDecode := by
  refine fun w i => ⟨fun h => ?_, ?_⟩
  · obtain ⟨j, rfl, hrow⟩ := exists_encode_of_matches h
    exact ⟨j, decodeTable_encode j, hrow⟩
  · rintro ⟨j, hj, hrow⟩
    rw [← encodeOfDecode w j hj, ← rowMask_eq_of_rowMatch hrow, ← hrow]
    exact tableRow j

end Sys2Proof.Machine
end

section
namespace Sys2Proof.Machine

/-! ### Status and response (R80 to R84) -/

/-- Of two statuses that are not NOT_YET, the combination is SUCCESS only if both are (R82, R83). -/
theorem or_eq_success_iff {a x : Status} (ha : a ≠ 0b000#3) (hx : x ≠ 0b000#3) :
    a ||| x = 0b001#3 ↔ a = 0b001#3 ∧ x = 0b001#3 := by
  revert a x; decide

theorem foldl_combine_eq_success_iff {l : List Status} (hl : ∀ x ∈ l, x ≠ 0b000#3) {a : Status} (ha : a ≠ 0b000#3) :
    l.foldl combine a = 0b001#3 ↔ a = 0b001#3 ∧ ∀ x ∈ l, x = 0b001#3 := by
  induction l generalizing a with
  | nil => simp
  | cons x l ih =>
    obtain ⟨hx, hl⟩ := List.forall_mem_cons.1 hl
    have hax : a ||| x ≠ 0b000#3 := by simp [ha]
    rw [List.foldl_cons, combine, ih hl hax, or_eq_success_iff ha hx, List.forall_mem_cons, and_assoc]

theorem successful_iff (acc : Status) : successful acc = true ↔ acc = 0b001#3 := by
  rw [successful, beq_iff_eq, statusSuccess]

/-- Settles O6: `combine` is bitwise OR, and the list law is an induction over the list. -/
theorem statusAlgebra : Obligations.StatusAlgebra := by
  refine ⟨fun _ _ => rfl, successful_iff, BitVec.or_comm, fun a b c => (BitVec.or_assoc a b c).symm,
    fun _ => BitVec.zero_or, fun _ => BitVec.or_self, fun l hne hl => ?_, rfl, rfl⟩
  obtain ⟨x, l, rfl⟩ := List.exists_cons_of_ne_nil hne
  have hne0 : ∀ y ∈ x :: l, y ≠ 0b000#3 := fun y hy => by rcases hl y hy with rfl | rfl <;> decide
  obtain ⟨hx, hl⟩ := List.forall_mem_cons.1 hne0
  rw [successful_iff, accumulate, List.foldl_cons, statusNotYet, combine, BitVec.zero_or,
    foldl_combine_eq_success_iff hl hx, List.forall_mem_cons]

/-- Settles O7: each field of an appended word is the part appended. -/
theorem responseWordLayout : Obligations.ResponseWordLayout := by
  intro r
  have hword : r.word = (0#5 ++ r.status) ++ r.data := rfl
  rw [hword]
  refine ⟨?_, ?_, ?_⟩
  · rw [BitVec.extractLsb'_append_eq_of_le (by decide)]
    exact (BitVec.extractLsb'_append_eq_of_le (by decide)).trans BitVec.extractLsb'_eq_self
  · rw [BitVec.extractLsb'_append_eq_of_le (by decide)]
    exact (BitVec.extractLsb'_append_eq_of_add_le (by decide)).trans BitVec.extractLsb'_eq_self
  · exact (BitVec.extractLsb'_append_eq_of_add_le (by decide)).trans BitVec.extractLsb'_eq_self

/-- Settles O33: a command's step at that stage is `respondBusFault`. -/
theorem busFaultResponse : Obligations.BusFaultResponse := fun _ s hi hf hp =>
  (exec_eq_command hi s).trans (command_busy hf hp)

/-! ### The control bits (R89) -/

theorem and_not_of_disjoint {b m : Byte} (h : b &&& m = 0#8) : b &&& ~~~m = b := by
  ext i hi
  have hbit : (b[i] && m[i]) = false := by simpa using congrArg (·[i]) h
  rw [BitVec.getElem_and, BitVec.getElem_not]
  revert hbit
  cases b[i] <;> cases m[i] <;> decide

theorem or_and_not_of_disjoint {b m : Byte} (h : b &&& m = 0#8) : (b ||| m) &&& ~~~m = b := by
  rw [BitVec.and_or_distrib_right, and_not_of_disjoint h, BitVec.and_not_self]
  exact BitVec.or_zero

/-- Of a byte with no reserved bit, the strip takes off the control bit alone. -/
theorem stripControl_of_control {h : HostParams} {r : SlaveReg} {b v : Byte} (hres : h.reservedBits r &&& b = 0#8)
    (hv : v &&& ~~~h.controlMask r = b) : stripControl h r v = b := by
  rw [stripControl, BitVec.not_or, ← BitVec.and_assoc, hv]
  exact and_not_of_disjoint ((BitVec.and_comm ..).trans hres)

theorem stripControl_and_reserved (h : HostParams) (r : SlaveReg) (b : Byte) :
    stripControl h r b &&& h.reservedBits r = 0#8 := by
  rw [stripControl, BitVec.not_or, ← BitVec.and_assoc, BitVec.and_assoc, BitVec.not_and_self]
  exact BitVec.and_zero

theorem bit7_of_seconds {b : Byte} (hv : validBcd b = true) (hb : bcdValue b ≤ 59) : b &&& 0x80#8 = 0#8 := by
  revert b; decide

theorem bit6_of_hours {b : Byte} (hv : validBcd b = true) (hb : bcdValue b ≤ 23) : b &&& 0x40#8 = 0#8 := by
  revert b; decide

theorem bit5_of_month {b : Byte} (hv : validBcd b = true) (hb : bcdValue b ≤ 12) : b &&& 0x20#8 = 0#8 := by
  revert b; decide

theorem getLsbD_weekdayMask {h : HostParams} {k : Fin 8} (hk : h.weekdayBit = some k) (i : Nat) :
    h.weekdayMask.getLsbD i = decide (k.val = i) := by
  have hmask : h.weekdayMask = BitVec.twoPow 8 k := by rw [HostParams.weekdayMask, hk]; rfl
  simp [hmask, BitVec.getLsbD_twoPow]

theorem weekdayMask_of_none {h : HostParams} (hk : h.weekdayBit = none) : h.weekdayMask = 0#8 := by
  rw [HostParams.weekdayMask, hk]

theorem injectHours_strip {b : Byte} (hb : b &&& 0x40#8 = 0#8) : injectHours b &&& ~~~0x40#8 = b := by
  have hkeep := and_not_of_disjoint hb
  rw [injectHours, show (0xBF#8 : Byte) = ~~~0x40#8 from rfl, hkeep, hkeep]

theorem injectMonth_strip (year : Nat) {b : Byte} (hb : b &&& 0x20#8 = 0#8) :
    injectMonth year b &&& ~~~0x20#8 = b := by
  have hkeep := and_not_of_disjoint hb
  rw [injectMonth]
  split
  · exact or_and_not_of_disjoint hb
  · rw [show (0xDF#8 : Byte) = ~~~0x20#8 from rfl, hkeep, hkeep]

theorem injectMonth_bit5 (year : Nat) (b : Byte) : (injectMonth year b).getLsbD 5 = true ↔ year % 4 = 0 := by
  rw [injectMonth]
  split <;> simp [*]

theorem weekdayMask_disjoint {h : HostParams} {k : Fin 8} (hk : h.weekdayBit = some k) {b : Byte}
    (hb : b.getLsbD k = false) : b &&& h.weekdayMask = 0#8 := by
  apply BitVec.eq_of_getLsbD_eq
  intro i _
  rw [BitVec.getLsbD_and, getLsbD_weekdayMask hk, BitVec.getLsbD_zero]
  by_cases hi : k.val = i
  · rw [← hi, hb, Bool.false_and]
  · rw [decide_eq_false hi, Bool.and_false]

/-- Settles O54: a byte of its register's range has the control bit free, so that setting or clearing it there and
stripping it gives the byte back. -/
theorem controlBitsStrip : Obligations.ControlBitsStrip := by
  refine ⟨fun h b hres hv hle => ⟨?_, ?_⟩, fun h b hres hv hle => ⟨?_, ?_⟩, fun h b year hres hv hle => ⟨?_, ?_⟩,
    fun h b k hk hres hb => ⟨?_, ?_⟩, fun h b k hk => ?_, fun h b hk => ⟨?_, ?_⟩, stripControl_and_reserved⟩
  · exact stripControl_of_control hres (or_and_not_of_disjoint (bit7_of_seconds hv hle))
  · simp [injectSeconds]
  · exact stripControl_of_control hres (injectHours_strip (bit6_of_hours hv hle))
  · simp [injectHours]
  · exact stripControl_of_control hres (injectMonth_strip year (bit5_of_month hv hle))
  · exact injectMonth_bit5 year b
  · exact stripControl_of_control hres (or_and_not_of_disjoint (weekdayMask_disjoint hk hb))
  · simp [injectWeekday, getLsbD_weekdayMask hk]
  · simp only [stripControl, HostParams.controlMask, BitVec.getLsbD_and, BitVec.getLsbD_not, BitVec.getLsbD_or,
      getLsbD_weekdayMask hk]
    simp
  · rw [injectWeekday, weekdayMask_of_none hk, BitVec.or_zero]
  · rw [stripControl, HostParams.controlMask, weekdayMask_of_none hk, BitVec.zero_or]
end Sys2Proof.Machine
end

section
namespace Sys2Proof.Machine

/-! ### The responses of a command in progress (R85, R86) -/

theorem exec_running {op : Instr} {st : Stage} {s : State} (hop : op.wellFormed = true) (hf : s.fault = none)
    (hp : s.phase = .busy op st) : exec (running op st) s = .next (busyStep op st s) := by
  cases st with
  | recovery r => exact execRecover_recovery hf hp
  | line | more | busFault => exact (exec_eq_command hop s).trans (command_busy hf hp)

/-- Everything a step from a command in progress can do: an overlapping offer's fault, or the command's own step,
a host's move consumed or not. -/
theorem step_busy_cases {op : Instr} {st : Stage} {s t : State} (hop : op.wellFormed = true) (hf : s.fault = none)
    (hp : s.phase = .busy op st) (h : step s = .next t) :
    ∃ hs : List HostMove,
      t = ({ s with host := hs } : State).raise .busy ∨ t = busyStep op st { s with host := hs } := by
  have hrun (hs : List HostMove) :
      exec (running op st) { s with host := hs } = .next (busyStep op st { s with host := hs }) :=
    exec_running hop hf hp
  by_cases hq : s.quiet = true
  · rw [step_busy_quiet hf hp ((State.quiet_iff s).1 hq)] at h
    exact ⟨s.host, .inr (Host.Outcome.next.inj (h.symm.trans (hrun s.host)))⟩
  · rcases hm : s.host with _ | ⟨_ | w | _ | _ | _, rest⟩
    case cons.offer =>
      rw [step_busy_offer hf hp hm] at h
      exact ⟨rest, .inl (Host.Outcome.next.inj h.symm)⟩
    case cons.hold =>
      rw [step_busy_hold hf hp hm] at h
      exact ⟨rest, .inr (Host.Outcome.next.inj (h.symm.trans (hrun rest)))⟩
    all_goals simp [State.quiet, hm] at hq

/-- A step of recovery leaves its command in progress, in recovery or at the response after it (R171, R178). -/
theorem recoverStep_stays (op : Instr) (r : RecStep) (s : State) :
    ∃ st, (recoverStep op r s).phase = .busy op st ∧ (st = .busFault ∨ ∃ r', st = .recovery r') := by
  cases r with
  | exit => exact ⟨_, rfl, .inl rfl⟩
  | sample => rw [recoverStep, State.recSample_eq]; exact ⟨_, rfl, .inr ⟨_, rfl⟩⟩
  | restartPoll | restartMore | stopPoll | stopMore =>
    rw [recoverStep, State.epiloguePoll_eq]; exact ⟨_, rfl, .inr ⟨_, rfl⟩⟩
  | _ => exact ⟨_, rfl, .inr ⟨_, rfl⟩⟩

theorem resp_recoverStep (op : Instr) (r : RecStep) (s : State) : (recoverStep op r s).resp = s.resp := by
  cases r <;> simp [recoverStep, State.epiloguePoll_eq, State.recSample_eq, State.pinDir, State.leaveRecovery]

/-- A step of a command leaves it in progress and the response register as it is, or logs nothing and responds
SUCCESS, or BUS_FAULT after recovery, or raises. -/
theorem busyStep_responds {op : Instr} {st : Stage} {s t : State} (h : BusyStep op s st t) :
    (t.phase ≠ .idle ∧ t.resp = s.resp) ∨
      ∃ r, t.phase = .idle ∧ t.ev = s.ev ∧ t.resp = some r ∧
        (r.status = statusSuccess ∨ (r.status = statusBusFault ∧ st = .busFault)) := by
  cases h with
  | line h | more h =>
    cases h with
    | write => exact .inl ⟨by simp, by simp⟩
    | wait => rw [waitLine_eq]; exact .inl ⟨by simp, by simp⟩
    | read => exact .inl ⟨by simp, by simp⟩
    | respond d => exact .inr ⟨⟨statusSuccess, d⟩, rfl, rfl, rfl, .inl rfl⟩
    | domain => exact .inl ⟨by simp, rfl⟩
  | recovery r =>
    obtain ⟨st', hp, -⟩ := recoverStep_stays op r s
    exact .inl ⟨by simp [hp], resp_recoverStep op r s⟩
  | busFault => exact .inr ⟨_, rfl, rfl, rfl, .inr ⟨rfl, rfl⟩⟩

theorem State.phaseFits_busy {op : Instr} {st : Stage} {s : State} (hp : s.phase = .busy op st)
    (hs : s.phaseFits = true) : op.wellFormed = true ∧ stageOf op st = true := by
  simpa only [State.phaseFits, hp, Bool.and_eq_true] using hs

theorem State.faultFits_iff (s : State) : s.faultFits = true ↔ (s.fault ≠ none ↔ s.phase = .faulted) := by
  cases hf : s.fault <;> by_cases hp : s.phase = .faulted <;> simp [State.faultFits, hf, hp]

/-- Settles O51: an overlapping offer raises, and the command's own step is one of `busyStep_responds`' cases. -/
theorem statusesProduced : Obligations.StatusesProduced := by
  intro s t op st hp hs hf h
  have hop : op.wellFormed = true := (State.phaseFits_busy hp hs).1
  obtain ⟨hs', rfl | rfl⟩ := step_busy_cases hop hf hp h
  · simp
  · have hstep := busyStep_of_wellFormed (st := st) (.inl hop) { s with host := hs' }
    generalize busyStep op st { s with host := hs' } = t at *
    have hfits := (State.faultFits_iff t).1 (faultFits_busyStep (s := { s with host := hs' }) hf hstep)
    refine ⟨fun hidle => ?_, fun hbusy => ?_, hfits.1⟩
    all_goals obtain ⟨hphase, hresp⟩ | ⟨r, hphase, hev, hresp, hst⟩ := busyStep_responds hstep
    · exact absurd hidle hphase
    · refine ⟨?_, hev, r, hresp, hst.imp_right fun ⟨hr, hst⟩ => ⟨hr, ?_, hst⟩⟩
      · by_contra hne
        simp [hfits.1 hne] at hphase
      · subst hst; exact (State.phaseFits_busy hp hs).2
    · exact hresp
    · exact absurd hphase hbusy

end Sys2Proof.Machine
end

section
namespace Sys2Proof.Machine
/-! ### The host's retry (R97, R241) -/

/-- A word offered to an idle block is decoded, and runs or raises F_ILLEGAL_CMD (R120). -/
theorem step_of_offered {s u : State} {w : Word} (h : turn s = offered w u) :
    (∀ i, decode w = some i → step s = exec i u) ∧
      (decode w = none → step s = .next { u with fault := some .illegalCmd, phase := .faulted }) := by
  refine ⟨fun i hd => ?_, fun hd => ?_⟩ <;> rw [step, h, offered, hd]
  rfl

/-- The accumulator after the response to the last word offered, if one was, is read into it (R82, R97). -/
theorem combineResponse_eq {done : List Word} {acc acc' : Status} {resp : Option Response}
    (hnone : done = [] → acc' = acc) (hsome : ∀ r, done ≠ [] → resp = some r → acc' = acc ||| r.status)
    (hresp : done = [] ∨ resp ≠ none) : combineResponse done acc resp = acc' := by
  rcases done with _ | ⟨w, ws⟩
  · exact (hnone rfl).symm
  · obtain ⟨r, rfl⟩ := Option.ne_none_iff_exists'.1 (hresp.resolve_left (by simp))
    exact (hsome r (by simp) rfl).symm

/-- Settles O55: each clause is one case of the turn of an idle block whose host runs an attempt. -/
theorem hostRunsAttempt : Obligations.HostRunsAttempt := by
  intro s done left acc acc' rest hp hf hh hnone hsome hresp
  have hturn := turn_idle_attempt hf hp hh
  have hacc := combineResponse_eq hnone hsome hresp
  refine ⟨?_, ?_, ?_, ?_⟩
  · rintro w ws u rfl rfl
    rw [← hacc]
    exact step_of_offered (hturn.trans rfl)
  · rintro rfl hne hsucc
    obtain ⟨w, ws, rfl⟩ := List.exists_cons_of_ne_nil hne
    simp [step, hturn, attemptTurn, hacc, successful_iff, hsucc]
  · rintro w ws u rfl rfl hfail rfl
    refine step_of_offered (hturn.trans ?_)
    simp [attemptTurn, hacc, successful_iff, hfail, statusNotYet]
  · rintro rfl rfl
    simp [step, hturn, attemptTurn]

end Sys2Proof.Machine
end

section
namespace Sys2Proof.Machine

/-! ### A command on a bus stuck at 1 (R241, 93_implementation_defined.md U10) -/

/-- The environment answers 1 to every poll and sample, for ever (log 4). -/
def Env.StuckHigh (e : Env) : Prop := e.bits = [] ∧ e.cycle = [true]

theorem Env.StuckHigh.drawBit {e : Env} (h : e.StuckHigh) : e.drawBit = (true, e) :=
  Env.drawBit_stuck h.1 h.2

theorem Env.StuckHigh.drawByte {e : Env} (h : e.StuckHigh) : e.drawByte.2.StuckHigh := by
  unfold Env.drawByte
  split <;> exact h

/-- A wait for 0 stands at line `n` of the command or after it. -/
def WaitsForZero (op : Instr) (n : Nat) : Prop := ∃ m p, n ≤ m ∧ waitOf op m = some (p, false)

theorem waitsForZero_of_needsInit {op : Instr} (h : needsInit op = true) : WaitsForZero op 0 := by
  cases op with
  | init | recover | bcdenc | bcddec => cases h
  | waitidle | write => exact ⟨0, _, Nat.zero_le _, rfl⟩
  | start | stop | restart => exact ⟨1, _, Nat.zero_le _, rfl⟩
  | ack | nack => exact ⟨2, _, Nat.zero_le _, rfl⟩
  | read => exact ⟨5, _, Nat.zero_le _, rfl⟩

theorem WaitsForZero.succ {op : Instr} {n : Nat} (h : WaitsForZero op n) (hn : ∀ p, waitOf op n ≠ some (p, false)) :
    WaitsForZero op (n + 1) := by
  obtain ⟨m, p, hle, hm⟩ := h
  refine ⟨m, p, Nat.lt_of_le_of_ne hle ?_, hm⟩
  rintro rfl
  exact hn p hm

theorem WaitsForZero.lt_lastLine {op : Instr} {n : Nat} (h : WaitsForZero op n) : n < lastLine op := by
  obtain ⟨m, p, hle, hm⟩ := h
  exact hle.trans_lt (waitOf_inside hm).1

theorem waitOf_of_writeOf {p : Params} {op : Instr} {n : Nat} {w : RegWr} (h : writeOf p op n = some w) :
    waitOf op n = none := by
  unfold writeOf at h
  split at h <;> simp_all [waitOf]

/-- ON at a stage of a command, if it was 1 when the command began (R173, R174). -/
def enabledAt : Stage → Bit
  | .recovery r => !r.peripheralOff
  | .line _ | .more _ | .busFault => true

/-- A bus command at this stage of its pseudocode has a wait for 0 still to come. -/
def waitsAt (op : Instr) : Stage → Prop
  | .line n | .more n => needsInit op = true → WaitsForZero op n
  | .recovery _ | .busFault => True

theorem enabledAt_recoverStep {op : Instr} {r : RecStep} {st : Stage} {s : State} (hon : s.on = enabledAt (.recovery r))
    (hp : (recoverStep op r s).phase = .busy op st) : (recoverStep op r s).on = enabledAt st := by
  cases r with
  | sample =>
    rw [recoverStep, State.recSample_eq] at hp ⊢
    cases hp
    split_ifs <;> exact hon
  | restartPoll | restartMore | stopPoll | stopMore =>
    rw [recoverStep, State.epiloguePoll_eq] at hp ⊢
    cases hp
    split_ifs <;> exact (State.poll_on _ s).trans hon
  | disable | reinitOn => cases hp; rfl
  | _ => cases hp; exact hon

theorem stuckHigh_recoverStep {s : State} (h : s.env.StuckHigh) (op : Instr) (r : RecStep) :
    (recoverStep op r s).env.StuckHigh := by
  cases r with
  | sample => simpa [recoverStep, State.recSample_eq, h.drawBit] using h
  | restartPoll | restartMore | stopPoll | stopMore =>
    simpa [recoverStep, State.epiloguePoll_eq, h.drawBit] using h
  | _ => exact h

theorem stuckHigh_busyStep {op : Instr} {st : Stage} {s t : State} (h : s.env.StuckHigh) (hstep : BusyStep op s st t) :
    t.env.StuckHigh := by
  cases hstep with
  | line hl | more hl =>
    cases hl with
    | write w => simpa using h
    | wait p want => simpa [waitLine_eq, h.drawBit] using h
    | read => exact h.drawByte
    | respond | domain => exact h
  | recovery r => exact stuckHigh_recoverStep h op r
  | busFault => exact h

/-- What a step of a command in its domain leads to on a bus stuck at 1: a stage of it with its wait for 0 still to
come, or its response, BUS_FAULT if it is a bus command. -/
inductive StuckStep (op : Instr) (t : State) : Prop
  | busy (st : Stage) (hp : t.phase = .busy op st) (hon : t.on = enabledAt st) (hwait : waitsAt op st)
  | idle (r : Response) (hp : t.phase = .idle) (hon : t.on = true) (hresp : t.resp = some r)
      (hstatus : needsInit op = true → r.status = statusBusFault)

theorem stuckStep_lineStep {op : Instr} {n : Nat} {first : Bool} {s t : State} (hd : inDomain op = true)
    (henv : s.env.StuckHigh) (hon : s.on = true) (hwait : needsInit op = true → WaitsForZero op n)
    (h : LineStep op n first s t) : StuckStep op t := by
  cases h with
  | write w hw =>
    refine .busy (.line (n + 1)) rfl (State.regWrite_on_of_enabled hon (writeOf_ne_disable hw)) fun hneed => ?_
    exact (hwait hneed).succ (by simp [waitOf_of_writeOf hw])
  | wait p want hw =>
    have hon' : (s.poll p).2.on = true := (s.poll_on p).trans hon
    rw [waitLine_eq, henv.drawBit]
    cases want with
    | true => exact .busy _ rfl hon' fun hneed => (hwait hneed).succ (by simp [hw])
    | false =>
      generalize (if first then 0 else s.cnt) = c
      split_ifs with hbit hlast
      · cases hbit
      · exact .busy _ rfl hon' trivial
      · exact .busy _ rfl hon' hwait
  | read l hop hn =>
    subst hop hn
    exact .busy (.line 3) rfl hon fun hneed => (hwait hneed).succ (by simp [waitOf])
  | respond d hn =>
    refine .idle ⟨statusSuccess, d⟩ rfl hon rfl fun hneed => ?_
    have := (hwait hneed).lt_lastLine
    omega
  | domain hn hnd => simp [hd] at hnd

theorem stuckStep_busyStep {op : Instr} {st : Stage} {s t : State} (hd : inDomain op = true) (henv : s.env.StuckHigh)
    (hon : s.on = enabledAt st) (hwait : waitsAt op st) (h : BusyStep op s st t) : StuckStep op t := by
  cases h with
  | line h | more h => exact stuckStep_lineStep hd henv hon hwait h
  | recovery r =>
    obtain ⟨st', hp, hst⟩ := recoverStep_stays op r s
    refine .busy st' hp (enabledAt_recoverStep hon hp) ?_
    rcases hst with rfl | ⟨r', rfl⟩ <;> trivial
  | busFault => exact .idle _ rfl hon rfl fun _ => rfl

/-! ### The statuses of an attempt on a bus stuck at 1 -/

theorem busWord_eq_needsInit {w : Word} {i : Instr} (h : decode w = some i) : busWord w = needsInit i := by
  obtain ⟨rfl, hi⟩ := decode_eq_some_iff.1 h
  rw [busWord, ← toNat_fieldOp]
  cases i with
  | recover => cases hi
  | _ => simp [encode, needsInit]

/-- If a bus command is among the words, the accumulated status holds a BUS_FAULT (R82). -/
def Tainted (words : List Word) (acc : Status) : Prop :=
  (∃ w ∈ words, busWord w = true) → acc.getLsbD 1 = true

theorem tainted_nil (acc : Status) : Tainted [] acc := by simp [Tainted]

theorem Tainted.not_successful {words : List Word} {acc : Status} (h : Tainted words acc)
    (hbus : ∃ w ∈ words, busWord w = true) : successful acc = false := by
  have hbit := h hbus
  rw [successful, beq_eq_false_iff_ne]
  rintro rfl
  cases hbit

theorem Tainted.response {words : List Word} {w : Word} {acc : Status} {r : Response} (h : Tainted words acc)
    (hr : busWord w = true → r.status = statusBusFault) :
    Tainted (words ++ [w]) (combineResponse (words ++ [w]) acc (some r)) := by
  have hcombine : combineResponse (words ++ [w]) acc (some r) = acc ||| r.status := by cases words <;> rfl
  rw [hcombine]
  rintro ⟨v, hv, hbus⟩
  rw [BitVec.getLsbD_or]
  rcases List.mem_append.1 hv with hv | hv
  · rw [h ⟨v, hv, hbus⟩, Bool.true_or]
  · obtain rfl := List.mem_singleton.1 hv
    rw [hr hbus, Bool.or_eq_true]
    exact .inr rfl

/-! ### The attempt never ends (R97, R241) -/

/-- The attempt's words are legal commands in their domains, a bus command among them. -/
structure BusAttempt (words : List Word) : Prop where
  legal : ∀ w ∈ words, ∃ i, decode w = some i ∧ inDomain i = true
  bus : ∃ w ∈ words, busWord w = true

/-- Where a block stands in its host's attempt: idle, the accumulator tainted by the responses to the words offered; or
busy with the last word offered, a wait for 0 still to come if it is a bus command. -/
inductive AttemptAt (words : List Word) (rest : List HostMove) (s : State) : Prop
  | idle (done left : List Word) (acc : Status) (hp : s.phase = .idle) (hon : s.on = true)
      (hh : s.host = .attempt done left acc :: rest) (hwords : done ++ left = words)
      (htaint : Tainted done (combineResponse done acc s.resp))
  | busy (op : Instr) (st : Stage) (done : List Word) (w : Word) (left : List Word) (acc : Status)
      (hp : s.phase = .busy op st) (hon : s.on = enabledAt st) (hwait : waitsAt op st)
      (hh : s.host = .attempt (done ++ [w]) left acc :: rest) (hwords : done ++ w :: left = words)
      (hd : decode w = some op) (htaint : Tainted done acc)

/-- The host is in its attempt on a bus stuck at 1, and no fault is recorded. -/
structure StuckAttempt (words : List Word) (rest : List HostMove) (s : State) : Prop where
  fault : s.fault = none
  env : s.env.StuckHigh
  progress : AttemptAt words rest s

section
variable {words : List Word} {rest : List HostMove} {s : State}

theorem StuckAttempt.on (h : StuckAttempt words rest s) (hp : s.phase = .idle) : s.on = true := by
  cases h.progress with
  | idle done left acc hp hon => exact hon
  | busy op st done w left acc hp' => cases hp.symm.trans hp'

/-- The block accepts a word of the attempt that its host offers. -/
theorem StuckAttempt.accepts (h : StuckAttempt words rest s) (hb : BusAttempt words) (hp : s.phase = .idle)
    {done left : List Word} {w : Word} {acc : Status}
    (hturn : turn s = offered w { s with host := .attempt (done ++ [w]) left acc :: rest })
    (hwords : done ++ w :: left = words) (htaint : Tainted done acc) :
    ∃ i, decode w = some i ∧ inDomain i = true ∧
      step s = .next (({ s with host := .attempt (done ++ [w]) left acc :: rest } : State).goTo i (.line 0)) ∧
      StuckAttempt words rest
        (({ s with host := .attempt (done ++ [w]) left acc :: rest } : State).goTo i (.line 0)) := by
  have hon := h.on hp
  obtain ⟨i, hd, hdom⟩ := hb.legal w (by simp [← hwords])
  refine ⟨i, hd, hdom, ?_, h.fault, h.env, ?_⟩
  · rw [(step_of_offered hturn).1 i hd]
    exact exec_accept (wellFormed_of_decode hd) hp h.fault fun _ => hon
  · exact .busy i (.line 0) done w left acc rfl hon waitsForZero_of_needsInit rfl hwords hd htaint

/-- An idle block takes the next word of the attempt. -/
theorem StuckAttempt.offers_next (h : StuckAttempt words rest s) (hb : BusAttempt words) (hp : s.phase = .idle)
    {done left : List Word} {w : Word} {acc : Status} (hh : s.host = .attempt done (w :: left) acc :: rest) :
    ∃ i acc', decode w = some i ∧ inDomain i = true ∧
      step s = .next (({ s with host := .attempt (done ++ [w]) left acc' :: rest } : State).goTo i (.line 0)) ∧
      StuckAttempt words rest
        (({ s with host := .attempt (done ++ [w]) left acc' :: rest } : State).goTo i (.line 0)) := by
  cases h.progress with
  | busy op st done w left acc hp' => cases hp.symm.trans hp'
  | idle done' left' acc' hp' hon hh' hwords htaint =>
    cases hh.symm.trans hh'
    obtain ⟨i, hi⟩ := h.accepts hb hp (turn_idle_attempt h.fault hp hh) hwords htaint
    exact ⟨i, _, hi⟩

/-- After its last word the attempt is tainted, and an idle block takes its first word again (R97). -/
theorem StuckAttempt.offers_first (h : StuckAttempt words rest s) (hb : BusAttempt words) (hp : s.phase = .idle)
    {ws : List Word} {w : Word} {acc : Status} (hh : s.host = .attempt (w :: ws) [] acc :: rest) :
    ∃ i, decode w = some i ∧ inDomain i = true ∧
      step s = .next (({ s with host := .attempt [w] ws statusNotYet :: rest } : State).goTo i (.line 0)) ∧
      StuckAttempt words rest
        (({ s with host := .attempt [w] ws statusNotYet :: rest } : State).goTo i (.line 0)) := by
  cases h.progress with
  | busy op st done w left acc hp' => cases hp.symm.trans hp'
  | idle done' left' acc' hp' hon hh' hwords htaint =>
    cases hh.symm.trans hh'
    rw [List.append_nil] at hwords
    have hfail := htaint.not_successful (hwords ▸ hb.bus)
    refine h.accepts (done := []) hb hp ?_ hwords (tainted_nil _)
    rw [turn_idle_attempt h.fault hp hh, attemptTurn, hfail]
    rfl

/-- A step of the command in progress leaves it in progress, or its response taints the accumulator. -/
theorem StuckAttempt.busy_step (h : StuckAttempt words rest s) (hb : BusAttempt words) (hp : s.phase ≠ .idle) :
    ∃ t, step s = .next t ∧ StuckAttempt words rest t := by
  cases h.progress with
  | idle done left acc hp' => exact absurd hp' hp
  | busy op st done w left acc hp' hon hwait hh hwords hd htaint =>
    obtain ⟨i, hi, hdom⟩ := hb.legal w (by simp [← hwords])
    cases hd.symm.trans hi
    have hop := wellFormed_of_decode hd
    have hquiet : s.quiet = true := by simp [State.quiet, hh]
    have hrun : step s = .next (busyStep op st s) :=
      (step_busy_quiet h.fault hp' ((State.quiet_iff s).1 hquiet)).trans (exec_running hop h.fault hp')
    refine ⟨_, hrun, ?_⟩
    have hstep := busyStep_of_wellFormed (st := st) (.inl hop) s
    generalize busyStep op st s = t at hstep
    have hfits := (State.faultFits_iff t).1 (faultFits_busyStep h.fault hstep)
    have hh' := (host_busyStep hstep).trans hh
    have henv := stuckHigh_busyStep h.env hstep
    cases stuckStep_busyStep hdom h.env hon hwait hstep with
    | busy st' hpt hont hwaitt =>
      exact ⟨by simpa [hpt] using hfits, henv, .busy op st' done w left acc hpt hont hwaitt hh' hwords hd htaint⟩
    | idle r hpt hont hresp hstatus =>
      refine ⟨by simpa [hpt] using hfits, henv, .idle (done ++ [w]) left acc hpt hont hh' (by simpa using hwords) ?_⟩
      rw [hresp]
      exact htaint.response fun hbus => hstatus ((busWord_eq_needsInit hd).symm.trans hbus)

theorem StuckAttempt.step (h : StuckAttempt words rest s) (hb : BusAttempt words) :
    ∃ t, step s = .next t ∧ StuckAttempt words rest t := by
  by_cases hp : s.phase = .idle
  · cases h.progress with
    | busy op st done w left acc hp' => cases hp.symm.trans hp'
    | idle done left acc hp hon hh hwords htaint =>
      rcases left with _ | ⟨w, left⟩
      · rcases done with _ | ⟨w, ws⟩
        · subst hwords
          simpa using hb.bus
        · obtain ⟨i, -, -, hi⟩ := h.offers_first hb hp hh
          exact ⟨_, hi⟩
      · obtain ⟨i, acc', -, -, hi⟩ := h.offers_next hb hp hh
        exact ⟨_, hi⟩
  · exact h.busy_step hb hp

theorem StuckAttempt.start (hp : s.phase = .idle) (hf : s.fault = none) (hon : s.on = true) {acc : Status}
    (hh : s.host = .attempt [] words acc :: rest) (hbits : s.env.bits = []) (hcycle : s.env.cycle = [true]) :
    StuckAttempt words rest s :=
  ⟨hf, ⟨hbits, hcycle⟩, .idle [] words acc hp hon hh rfl (tainted_nil _)⟩

theorem StuckAttempt.runs (h : StuckAttempt words rest s) (hb : BusAttempt words) (n : Nat) :
    ∃ t, Runs n s t ∧ StuckAttempt words rest t := by
  induction n with
  | zero => exact ⟨s, rfl, h⟩
  | succ n ih =>
    obtain ⟨t, hrun, ht⟩ := ih
    obtain ⟨u, hstep, hu⟩ := ht.step hb
    exact ⟨u, hrun.trans (.of_step hstep), hu⟩

theorem StuckAttempt.of_runs (h : StuckAttempt words rest s) (hb : BusAttempt words) {n : Nat} {t : State}
    (hrun : Runs n s t) : StuckAttempt words rest t := by
  refine hrun.keeps (fun s t hs hstep => ?_) h
  obtain ⟨u, hu, hstuck⟩ := hs.step hb
  cases hstep.symm.trans hu
  exact hstuck

end

/-- Settles O56: every step of a run on the stuck bus keeps `StuckAttempt`. -/
theorem stuckBusNeverLeavesAttempt : Obligations.StuckBusNeverLeavesAttempt := by
  intro s words rest hp hf hon hh hlegal hbus hbits hcycle N
  obtain ⟨t, hrun, hfault, -, hat⟩ := (StuckAttempt.start hp hf hon hh hbits hcycle).runs ⟨hlegal, hbus⟩ N
  cases hat with
  | idle done left acc _ _ hht hwords => exact ⟨t, done, left, acc, hrun, hfault, hht, hwords⟩
  | busy op st done w left acc _ _ _ hht hwords =>
    exact ⟨t, done ++ [w], left, acc, hrun, hfault, hht, by simpa using hwords⟩

/-! ### Without nesting, every try ends (R241, R245) -/

/-- A block at rest in its host's attempt, with the words offered so far and those left, on a bus stuck at 1. -/
structure AtRest (words : List Word) (rest : List HostMove) (done left : List Word) (s : State) : Prop where
  stuck : StuckAttempt words rest s
  phase : s.phase = .idle
  pinOwner : s.pinOwner = .periph
  legal : s.params.legal = true
  unnested : s.params.nestedRecovery = false
  host : ∃ acc, s.host = .attempt done left acc :: rest

section
variable {words : List Word} {rest : List HostMove} {s : State} {done left : List Word}

/-- From rest, the word accepted next brings the block to rest again: its command responds (R245). -/
theorem AtRest.responds (h : AtRest words rest done left s) (hb : BusAttempt words) {done' left' : List Word}
    {acc : Status} {i : Instr} {u : State} (hdom : inDomain i = true) (hi : i.wellFormed = true) (hon : s.on = true)
    (hu : u = ({ s with host := .attempt done' left' acc :: rest } : State).goTo i (.line 0))
    (hstep : step s = .next u) : ∃ n t, Runs (n + 1) s t ∧ AtRest words rest done' left' t := by
  have hprog : InProgress i (.line 0) u := by
    subst hu
    exact ⟨rfl, h.stuck.fault, rfl, h.legal, h.unnested,
      (State.onCourse_line rfl).2 ⟨hi, Nat.zero_le _, h.pinOwner, fun _ => hon⟩⟩
  obtain ⟨evs, r, t, hresp, -⟩ := hprog.responds hdom ⟨0, .inl rfl⟩
  have hrun : Runs (evs.length + 1 + 1) s t := ((Runs.of_step hstep).trans hresp.runs).cast (by omega) rfl
  have hparams : t.params = s.params := hrun.keeps (P := fun v => v.params = s.params)
    (fun _ _ hv hstep' => (params_step hstep').trans hv) rfl
  exact ⟨_, t, hrun, h.stuck.of_runs hb hrun, hresp.phase, hresp.pinOwner, hparams ▸ h.legal, hparams ▸ h.unnested,
    acc, hresp.host.trans (hu ▸ rfl)⟩

theorem AtRest.next {w : Word} (h : AtRest words rest done (w :: left) s) (hb : BusAttempt words) :
    ∃ n t, Runs (n + 1) s t ∧ AtRest words rest (done ++ [w]) left t := by
  obtain ⟨acc, hh⟩ := h.host
  obtain ⟨i, acc', hd, hdom, hstep, -⟩ := h.stuck.offers_next hb h.phase hh
  exact h.responds hb hdom (wellFormed_of_decode hd) (h.stuck.on h.phase) rfl hstep

theorem AtRest.again {w : Word} {ws : List Word} (h : AtRest words rest (w :: ws) [] s) (hb : BusAttempt words) :
    ∃ n t, Runs (n + 1) s t ∧ AtRest words rest [w] ws t := by
  obtain ⟨acc, hh⟩ := h.host
  obtain ⟨i, hd, hdom, hstep, -⟩ := h.stuck.offers_first hb h.phase hh
  exact h.responds hb hdom (wellFormed_of_decode hd) (h.stuck.on h.phase) rfl hstep

/-- The attempt's last word is answered. -/
theorem AtRest.last (h : AtRest words rest done left s) (hb : BusAttempt words) :
    ∃ n t, Runs n s t ∧ AtRest words rest (done ++ left) [] t := by
  induction left generalizing s done with
  | nil => exact ⟨0, s, rfl, by simpa using h⟩
  | cons w left ih =>
    obtain ⟨m, t, hrun, ht⟩ := h.next hb
    obtain ⟨n, u, hrun', hu⟩ := ih ht
    exact ⟨_, u, hrun.trans hrun', by simpa using hu⟩

theorem AtRest.last_after {w : Word} {ws : List Word} (h : AtRest words rest [] (w :: ws) s) (hb : BusAttempt words)
    (N : Nat) : ∃ M t, N ≤ M ∧ Runs M s t ∧ AtRest words rest (w :: ws) [] t := by
  induction N with
  | zero =>
    obtain ⟨n, t, hrun, ht⟩ := h.last hb
    exact ⟨n, t, Nat.zero_le _, hrun, ht⟩
  | succ N ih =>
    obtain ⟨M, t, hle, hrun, ht⟩ := ih
    obtain ⟨m, u, hrun', hu⟩ := ht.again hb
    obtain ⟨n, v, hrun'', hv⟩ := hu.last hb
    exact ⟨_, v, by omega, (hrun.trans hrun').trans hrun'', hv⟩

end

/-! ### Runs and the fields no rule reads -/

theorem step_congr_forgetCopies {s s' t : State} (hs : s.forgetCopies = s'.forgetCopies) (h : step s = .next t) :
    ∃ t', step s' = .next t' ∧ t.forgetCopies = t'.forgetCopies := by
  have hout : forgetOutcome (step s') = .next t.forgetCopies := by
    rw [← copiesNeverRead s', ← hs, copiesNeverRead s, h, forgetOutcome]
  cases hstep : step s' with
  | next t' =>
    rw [hstep] at hout
    exact ⟨t', rfl, (Host.Outcome.next.inj hout).symm⟩
  | fault | refused => rw [hstep] at hout; cases hout

/-- States that differ in those fields only have the same runs, but for those fields. -/
theorem Runs.congr_forgetCopies {n : Nat} {s s' t : State} (hs : s.forgetCopies = s'.forgetCopies) (h : Runs n s t) :
    ∃ t', Runs n s' t' ∧ t.forgetCopies = t'.forgetCopies := by
  induction n generalizing s s' with
  | zero => cases h; exact ⟨s', rfl, hs⟩
  | succ n ih =>
    simp only [Runs, Host.Core.run] at h
    split at h
    · next u hstep =>
      obtain ⟨u', hstep', hu⟩ := step_congr_forgetCopies hs hstep
      obtain ⟨t', hrun, ht⟩ := ih hu h
      exact ⟨t', ((Runs.of_step hstep').trans hrun).cast (Nat.add_comm ..) rfl, ht⟩
    · cases h
    · cases h

/-- Settles O59: a block whose peripheral owns the lines comes to rest after the last word beyond every `N`; who owns
them is among the fields no rule reads, so the run of any other block agrees with that block's run. -/
theorem stuckBusRetriesForever : Obligations.StuckBusRetriesForever := by
  intro s w ws rest hp hf hon hl hnest hh hlegal hbus hbits hcycle N
  have hb : BusAttempt (w :: ws) := ⟨hlegal, hbus⟩
  have hrest : AtRest (w :: ws) rest [] (w :: ws) s.forgetCopies :=
    ⟨.start hp hf hon hh hbits hcycle, hp, rfl, hl, hnest, _, hh⟩
  obtain ⟨M, u, hle, hrunu, hu⟩ := hrest.last_after hb N
  obtain ⟨acc, hhu⟩ := hu.host
  obtain ⟨t, hrun, hforget⟩ := Runs.congr_forgetCopies (s := s.forgetCopies) (s' := s) rfl hrunu
  have hpt : t.phase = .idle := (congrArg State.phase hforget).symm.trans hu.phase
  have hht : t.host = .attempt (w :: ws) [] acc :: rest := (congrArg State.host hforget).symm.trans hhu
  obtain ⟨i, hd, -, hstep, -⟩ :=
    ((StuckAttempt.start hp hf hon hh hbits hcycle).of_runs hb hrun).offers_first hb hpt hht
  exact ⟨M, t, _, acc, i, hle, hrun, hpt, hht, hd, hstep, rfl, rfl⟩

end Sys2Proof.Machine
end

section
namespace Sys2Proof.Machine

/-! ### The digits of a byte (R100) -/

theorem bcdTens_eq (b : Byte) : bcdTens b = b.toNat / 16 := by
  have hb := b.isLt
  simp only [bcdTens, BitVec.extractLsb'_toNat, Nat.shiftRight_eq_div_pow]
  omega

theorem bcdUnits_eq (b : Byte) : bcdUnits b = b.toNat % 16 := by
  simp [bcdUnits]

theorem validBcd_iff (b : Byte) : validBcd b = true ↔ b.toNat / 16 ≤ 9 ∧ b.toNat % 16 ≤ 9 := by
  simp [validBcd, bcdTens_eq, bcdUnits_eq]

theorem bcdValue_eq (b : Byte) : bcdValue b = b.toNat / 16 * 10 + b.toNat % 16 := by
  rw [bcdValue, bcdTens_eq, bcdUnits_eq]

theorem bcdByte_toNat {n : Nat} (hn : n ≤ 99) : (bcdByte n).toNat = n / 10 * 16 + n % 10 := by
  have hunits : n % 10 < 2 ^ 4 := by omega
  rw [bcdByte, BitVec.toNat_append, BitVec.toNat_ofNat, BitVec.toNat_ofNat, Nat.mod_eq_of_lt hunits,
    ← Nat.shiftLeft_add_eq_or_of_lt hunits, Nat.shiftLeft_eq]
  omega

theorem bcdByte_eq {n : Nat} (hn : n ≤ 99) : bcdByte n = BitVec.ofNat 8 (n / 10 * 16 + n % 10) := by
  rw [← bcdByte_toNat hn, BitVec.ofNat_toNat, BitVec.setWidth_eq]

theorem inBcdDomain_iff (n : Byte) : inBcdDomain (intOperand n) = true ↔ n.toNat ≤ 99 :=
  decide_eq_true_iff

/-! ### The codec's two maps are inverse to each other (R103) -/

theorem validBcd_bcdByte {n : Nat} (hn : n ≤ 99) : validBcd (bcdByte n) = true := by
  rw [validBcd_iff, bcdByte_toNat hn]
  omega

theorem bcdValue_bcdByte {n : Nat} (hn : n ≤ 99) : bcdValue (bcdByte n) = n := by
  rw [bcdValue_eq, bcdByte_toNat hn]
  omega

theorem bcdValue_le {b : Byte} (hb : validBcd b = true) : bcdValue b ≤ 99 := by
  rw [validBcd_iff] at hb
  rw [bcdValue_eq]
  omega

theorem bcdByte_bcdValue {b : Byte} (hb : validBcd b = true) : bcdByte (bcdValue b) = b := by
  apply BitVec.eq_of_toNat_eq
  rw [bcdByte_toNat (bcdValue_le hb), bcdValue_eq]
  rw [validBcd_iff] at hb
  omega

theorem toNat_ofNat_bcdValue {b : Byte} (hb : validBcd b = true) : (BitVec.ofNat 8 (bcdValue b)).toNat = bcdValue b := by
  have hle := bcdValue_le hb
  rw [BitVec.toNat_ofNat]
  omega

/-! ### The steps of the two commands (R101, R102) -/

section
variable {s : State} (hf : s.fault = none)
include hf

theorem exec_bcdenc {n : Byte} (hp : s.phase = .busy (.bcdenc n) (.line 0)) :
    exec (.bcdenc n) s =
      .next (if n.toNat ≤ 99 then s.respond statusSuccess (bcdByte n.toNat) else s.raise .bcdDomain) := by
  rw [exec_eq_command rfl, command_busy hf hp]
  simp only [← inBcdDomain_iff]
  rfl

theorem exec_bcddec {b : Byte} (hp : s.phase = .busy (.bcddec b) (.line 0)) :
    exec (.bcddec b) s =
      .next (if validBcd b = true then s.respond statusSuccess (BitVec.ofNat 8 (bcdValue b))
        else s.raise .bcdDomain) := by
  rw [exec_eq_command rfl, command_busy hf hp]
  rfl

theorem exec_bcdenc_responds {n : Byte} (hp : s.phase = .busy (.bcdenc n) (.line 0)) (hn : n.toNat ≤ 99) :
    exec (.bcdenc n) s = .next (s.respond statusSuccess (bcdByte n.toNat)) := by
  rw [exec_bcdenc hf hp, if_pos hn]

theorem exec_bcddec_responds {b : Byte} (hp : s.phase = .busy (.bcddec b) (.line 0)) (hb : validBcd b = true) :
    exec (.bcddec b) s = .next (s.respond statusSuccess (BitVec.ofNat 8 (bcdValue b))) := by
  rw [exec_bcddec hf hp, if_pos hb]

end

/-- Settles O35: 99 parts the integers with a BCD byte, whose two digits do not overlap, from the rest. -/
theorem bcdencSteps : Obligations.BcdencSteps := by
  intro n s hf hp
  refine ⟨fun hn => ?_, fun hn => ?_⟩
  · rw [exec_bcdenc_responds hf hp hn, bcdByte_eq hn]
    rfl
  · rw [exec_bcdenc hf hp, if_neg (Nat.not_le.2 hn)]
    rfl

/-- Settles O36: the digits are the quotient and the remainder by 16, and a digit above 9 is no valid BCD. -/
theorem bcddecSteps : Obligations.BcddecSteps := by
  intro b s hf hp
  refine ⟨fun hb => ?_, fun hb => ?_⟩
  · rw [exec_bcddec_responds hf hp ((validBcd_iff b).2 hb), bcdValue_eq]
    rfl
  · have hinvalid : ¬ validBcd b = true := by
      rw [validBcd_iff]
      omega
    rw [exec_bcddec hf hp, if_neg hinvalid]
    rfl

/-- Settles O37: each response's DATA is in the other command's domain, and `bcdByte` and `bcdValue` undo each
other. -/
theorem codecRoundTrip : Obligations.CodecRoundTrip := by
  refine ⟨fun n s hn hf hp => ?_, fun b s htens hunits hf hp => ?_⟩
  · refine ⟨bcdByte n.toNat, _, exec_bcdenc_responds hf hp hn, rfl, fun u hfu hpu => ?_⟩
    rw [exec_bcddec_responds hfu hpu (validBcd_bcdByte hn), bcdValue_bcdByte hn, BitVec.ofNat_toNat,
      BitVec.setWidth_eq]
    rfl
  · have hb := (validBcd_iff b).2 ⟨htens, hunits⟩
    have hvalue := toNat_ofNat_bcdValue hb
    refine ⟨BitVec.ofNat 8 (bcdValue b), _, exec_bcddec_responds hf hp hb, rfl, fun u hfu hpu => ?_⟩
    rw [exec_bcdenc_responds hfu hpu (hvalue.trans_le (bcdValue_le hb)), hvalue, bcdByte_bcdValue hb]
    rfl

end Sys2Proof.Machine
end

section
namespace Sys2Proof.Machine

/-! ### A guarded wait that times out (R121, R122, R202) -/

section
variable {op : Instr} {n : Nat} {p : Flag} {want : Bit}

/-- The state after a guarded wait whose budget has run out: `polled` are the bits it read. -/
def State.waitExpired (op : Instr) (p : Flag) (polled bits : List Bit) (s : State) : State :=
  { s with
    env := { s.env with bits := bits }, cnt := s.params.timeout, ev := s.ev ++ pollEvents p polled
    phase := .busy op (.recovery .enter) }

theorem waitLine_expires {first : Bool} {bits : List Bit} {s : State} (hw : waitOf op n = some (p, want))
    (hb : s.env.bits = (!want) :: bits) (hlast : (if first then 0 else s.cnt) + 1 = s.params.timeout) :
    waitLine p want op n first s = s.waitExpired op p [!want] bits := by
  rw [waitLine_eq, State.poll_eq (Env.drawBit_listed hb), Env.drawBit_listed hb, notePoll_unmet hw]
  simp [State.waitExpired, State.log, pollEvents, hlast]

/-- A guarded wait whose budget the next `k + 1` polls use up and do not meet, its own first poll being `first`. -/
theorem Runs.expire_from (hop : op.wellFormed = true) (hw : waitOf op n = some (p, want)) (k : Nat) {first : Bool}
    {bits : List Bit} {s : State} (hf : s.fault = none)
    (hp : s.phase = .busy op (if first then .line n else .more n)) (hq : s.quiet = true)
    (hk : (if first then 0 else s.cnt) + (k + 1) = s.params.timeout)
    (hb : s.env.bits = List.replicate (k + 1) (!want) ++ bits) :
    Runs (k + 1) s (s.waitExpired op p (List.replicate (k + 1) (!want)) bits) := by
  induction k generalizing s first with
  | zero => exact .busy hop hf hp hq ((busyStep_wait hop hw first s).trans (waitLine_expires hw hb hk))
  | succ k ih =>
    have hstep := (busyStep_wait hop hw first s).trans (waitLine_unmet hw hb (by omega))
    rw [Nat.add_comm]
    refine (Runs.busy hop hf hp hq hstep).trans (Runs.cast (ih (first := false) hf rfl hq ?_ rfl) rfl ?_)
    · simp only [Bool.false_eq_true, if_false]
      omega
    · simp [State.waitExpired, pollEvents, Nat.add_comm 1, List.replicate_succ]

theorem Runs.expire (hop : op.wellFormed = true) (hw : waitOf op n = some (p, want)) {bits : List Bit} {s : State}
    (hf : s.fault = none) (hp : s.phase = .busy op (.line n)) (hq : s.quiet = true) (hl : s.params.legal = true)
    (hb : s.env.bits = List.replicate s.params.timeout (!want) ++ bits) :
    Runs s.params.timeout s (s.waitExpired op p (List.replicate s.params.timeout (!want)) bits) := by
  obtain ⟨k, hk⟩ := Nat.exists_eq_add_of_lt ((Params.legal_iff _).1 hl).1
  rw [Nat.zero_add] at hk
  rw [hk] at hb ⊢
  exact Runs.expire_from (first := true) hop hw k hf hp hq (by simp [hk]) hb

theorem wellFormed_of_waitOf {w : Flag × Bit} (hw : waitOf op n = some w) : op.wellFormed = true := by
  cases op with
  | recover => cases hw
  | _ => rfl

end

/-- Settles O43: a wait met within its budget is `State.waitMet`, one whose budget runs out `State.waitExpired`. -/
theorem guardedWaitPolls : Obligations.GuardedWaitPolls := by
  intro op n p want s bits hw hp hf hq hl
  have hop := wellFormed_of_waitOf hw
  refine ⟨fun k hk hb => ?_, fun hb => ?_⟩
  · exact ⟨_, Runs.wait hop hw hf hp hq hk hb, rfl, rfl, rfl, rfl⟩
  · exact ⟨_, Runs.expire hop hw hf hp hq hl hb, rfl, rfl, rfl, rfl, rfl, rfl, rfl, rfl⟩

end Sys2Proof.Machine
end

section
namespace Sys2Proof.Machine

/-! ### The idle block's lines, acceptance and overlapping offers (R120, R137) -/

/-- Settles O12: on course, an idle block's lines are the peripheral's, and every run from reset stays on course. -/
theorem idlePeripheralOwnsLines : Obligations.IdlePeripheralOwnsLines := by
  intro p h e n t hl hrun hp
  obtain ⟨hinv, -⟩ := Runs.inv_of_reset hl hrun
  obtain ⟨-, -, hcourse, -⟩ := (State.inv_iff t).1 hinv
  exact (State.onCourse_idle hp).1 hcourse

/-- Settles O16: with ON 1 where it is needed, acceptance goes to the first line. -/
theorem legalCommandAccepted : Obligations.LegalCommandAccepted :=
  fun _ _ hi hp hf hon => exec_accept hi hp hf hon

theorem exec_before_init {i : Instr} {s : State} (hi : i.wellFormed = true) (hneed : needsInit i = true)
    (hp : s.phase = .idle) (hf : s.fault = none) (hoff : s.on = false) : exec i s = .next (s.raise .notInit) := by
  rw [exec_eq_command hi, command_idle hf hp]
  obtain ⟨-, -, h⟩ | ⟨hready, -⟩ := s.accept_cases i
  · rw [h]
  · simp [hneed, hoff] at hready

/-- Settles O17: each of the eight may be issued and needs ON. -/
theorem busCommandBeforeInitFaults : Obligations.BusCommandBeforeInitFaults := by
  intro i s hbus hp hf hoff
  have hi : i.wellFormed = true ∧ needsInit i = true := by
    rcases hbus with rfl | rfl | rfl | rfl | rfl | rfl | ⟨b, rfl⟩ | ⟨l, rfl⟩ <;> exact ⟨rfl, rfl⟩
  exact exec_before_init hi.1 hi.2 hp hf hoff

/-- Settles O19: a busy block's turn meets the offer before its stage. -/
theorem overlappingOfferFaults : Obligations.OverlappingOfferFaults :=
  fun _ _ _ _ _ hp hf hh => step_busy_offer hf hp hh

end Sys2Proof.Machine
end

section
namespace Sys2Proof.Machine

/-! ### One line of a command's pseudocode (R123 to R132) -/

/-- A register write of a command's pseudocode, carried out. -/
theorem busyStep_write {op : Instr} {n : Nat} {w : RegWr} {s : State} (hw : writeOf s.params op n = some w) :
    busyStep op (.line n) s = (s.regWrite w).goTo op (.line (n + 1)) := by
  unfold writeOf at hw
  split at hw <;> cases hw <;>
    simp [busyStep, stageStep, linesOf, ackSeq, cfgTimingLine, cfgModeLine, trnLine, writeLine]

/-- A poll of a guarded wait leaves what R121 and R122 say, `first` or not. -/
theorem waitLine_eq_result (p : Flag) (want : Bit) (i : Instr) (n : Nat) (first : Bool) (s : State) :
    waitLine p want i n first s = waitResult i n p want (if first then 0 else s.cnt) s := by
  rw [waitLine_eq]
  simp only [waitResult, State.poll_bit, beq_iff_eq]
  split_ifs <;> rfl

theorem State.readRcv_free {s : State} (hv : s.env.bytes = []) :
    s.readRcv =
      { s with
        env := { s.env with taken := s.env.taken + 1 }
        rxd := busByte s.params (Config.freeByte s.env.taken)
        ev := s.ev ++ [.rd (busByte s.params (Config.freeByte s.env.taken))] } := by
  simp [State.readRcv, Env.drawByte_free hv, State.log]

theorem wellFormed_of_writeOf {p : Params} {i : Instr} {n : Nat} {w : RegWr} (hw : writeOf p i n = some w) :
    i.wellFormed = true := by
  cases i with
  | recover => cases hw
  | _ => rfl

section
variable {i : Instr} {n : Nat} {s : State}

theorem exec_of_busyStep {st : Stage} {t : State} (hi : i.wellFormed = true) (hf : s.fault = none)
    (ht : busyStep i st s = t) (hp : s.phase = .busy i st) : exec i s = .next t :=
  ht ▸ (exec_eq_command hi s).trans (command_busy hf hp)

theorem exec_write (w : RegWr) (hf : s.fault = none) (hw : writeOf s.params i n = some w)
    (hp : s.phase = .busy i (.line n)) : exec i s = .next ((s.regWrite w).goTo i (.line (n + 1))) :=
  exec_of_busyStep (wellFormed_of_writeOf hw) hf (busyStep_write hw) hp

theorem exec_wait {p : Flag} {want : Bit} (hf : s.fault = none) (hw : waitOf i n = some (p, want))
    (hp : s.phase = .busy i (.line n)) : exec i s = .next (waitResult i n p want 0 s) :=
  have hi := wellFormed_of_waitOf hw
  exec_of_busyStep hi hf ((busyStep_wait hi hw true s).trans (waitLine_eq_result ..)) hp

theorem exec_wait_more {p : Flag} {want : Bit} (hf : s.fault = none) (hw : waitOf i n = some (p, want))
    (hp : s.phase = .busy i (.more n)) : exec i s = .next (waitResult i n p want s.cnt s) :=
  have hi := wellFormed_of_waitOf hw
  exec_of_busyStep hi hf ((busyStep_wait hi hw false s).trans (waitLine_eq_result ..)) hp

/-- The last line of a command whose response has no data. -/
theorem exec_respond (hi : i.wellFormed = true) (hf : s.fault = none) (hlast : lastOf i = respondLine)
    (hp : s.phase = .busy i (.line (linesOf i).length)) : exec i s = .next (s.respond statusSuccess 0x00#8) :=
  exec_of_busyStep hi hf (by simp [busyStep, stageStep, List.getD, hlast, respondLine]) hp

/-- READ's third line, the byte of RCV listed or free. -/
theorem exec_read_rcv {l : Bit} {t : State} (hf : s.fault = none) (hread : s.readRcv = t)
    (hp : s.phase = .busy (.read l) (.line 2)) : exec (.read l) s = .next (t.goTo (.read l) (.line 3)) :=
  exec_of_busyStep (st := .line 2) rfl hf (congrArg (State.goTo (.read l) (.line 3)) hread) hp

/-- READ's last line, which responds with the byte read. -/
theorem exec_respond_rxd {l : Bit} (hf : s.fault = none) (hp : s.phase = .busy (.read l) (.line 6)) :
    exec (.read l) s = .next (s.respond statusSuccess s.rxd) :=
  exec_of_busyStep rfl hf rfl hp

end

/-! ### The bus commands, line by line -/

/-- Settles O24: three writes and the response. -/
theorem initSteps : Obligations.InitSteps := fun s hf =>
  ⟨exec_write (.cfgTiming s.params.cfgTiming) hf rfl, exec_write (.cfgMode s.params.cfgMode) hf rfl,
    exec_write (.on true) hf rfl, exec_respond rfl hf rfl⟩

/-- Settles O25: the write of SEN, its wait, and the response. -/
theorem startSteps : Obligations.StartSteps := fun _ hf =>
  ⟨exec_write (.sen true) hf rfl, exec_wait hf rfl, exec_wait_more hf rfl, exec_respond rfl hf rfl⟩

/-- Settles O26: the write of PEN, its wait, and the response. -/
theorem stopSteps : Obligations.StopSteps := fun _ hf =>
  ⟨exec_write (.pen true) hf rfl, exec_wait hf rfl, exec_wait_more hf rfl, exec_respond rfl hf rfl⟩

/-- Settles O27: the write of RSEN, its wait, and the response. -/
theorem restartSteps : Obligations.RestartSteps := fun _ hf =>
  ⟨exec_write (.rsen true) hf rfl, exec_wait hf rfl, exec_wait_more hf rfl, exec_respond rfl hf rfl⟩

/-- Settles O28: the wait for TRSTAT, with no write before it, and the response. -/
theorem waitidleSteps : Obligations.WaitidleSteps := fun _ hf =>
  ⟨exec_wait hf rfl, exec_wait_more hf rfl, exec_respond rfl hf rfl⟩

/-- Settles O29: the writes of ACKDT and ACKEN, the wait for ACKEN, and the response. -/
theorem ackSteps : Obligations.AckSteps := fun _ hf =>
  ⟨exec_write (.ackdt false) hf rfl, exec_write (.acken true) hf rfl, exec_wait hf rfl, exec_wait_more hf rfl,
    exec_respond rfl hf rfl⟩

/-- Settles O30: ACK's lines, with the value 1 for ACKDT. -/
theorem nackSteps : Obligations.NackSteps := fun _ hf =>
  ⟨exec_write (.ackdt true) hf rfl, exec_write (.acken true) hf rfl, exec_wait hf rfl, exec_wait_more hf rfl,
    exec_respond rfl hf rfl⟩

/-- Settles O31: the idle wait, the load of TRN, the wait for an empty buffer, the idle wait, and the response. -/
theorem writeSteps : Obligations.WriteSteps := fun b s hf =>
  ⟨exec_wait hf rfl, exec_wait_more hf rfl,
    exec_write (.trn (busByte s.params b)) hf rfl,
    exec_wait hf rfl, exec_wait_more hf rfl,
    exec_wait hf rfl, exec_wait_more hf rfl,
    exec_respond rfl hf rfl⟩

/-- Settles O32: the enable of the receiver, its wait, the read of RCV, the acknowledge sequence, and the response. -/
theorem readSteps : Obligations.ReadSteps := fun l _ hf =>
  ⟨exec_write (.rcen true) hf rfl, exec_wait hf rfl, exec_wait_more hf rfl,
    fun hp _ _ hv => exec_read_rcv hf (State.readRcv_listed hv) hp,
    fun hp hv => exec_read_rcv hf (State.readRcv_free hv) hp,
    exec_write (.ackdt l) hf rfl, exec_write (.acken true) hf rfl, exec_wait hf rfl, exec_wait_more hf rfl,
    exec_respond_rxd hf⟩

end Sys2Proof.Machine
end

section
namespace Sys2Proof.Machine

/-! ### One step of recovery (R171, R178, R180) -/

/-- At a recovery stage with no word offered over it, the block makes recovery's next step, a hold of its host
consumed or not. -/
theorem step_recovery {op : Instr} {r : RecStep} {s : State} (hf : s.fault = none)
    (hp : s.phase = .busy op (.recovery r)) (hh : ∀ w rest, s.host ≠ .offer w :: rest) :
    ∃ hs, step s = .next (recoverStep op r { s with host := hs }) := by
  by_cases hhold : ∃ rest, s.host = .hold :: rest
  · obtain ⟨rest, hrest⟩ := hhold
    exact ⟨rest, (step_busy_hold hf hp hrest).trans (execRecover_recovery hf hp)⟩
  · exact ⟨s.host, (step_busy_quiet hf hp ⟨hh, not_exists.1 hhold⟩).trans (execRecover_recovery hf hp)⟩

theorem fault_recoverStep {op : Instr} {s : State} (hf : s.fault = none) (r : RecStep) :
    (recoverStep op r s).fault = none := by
  obtain ⟨st, hp, -⟩ := recoverStep_stays op r s
  simpa [hp] using (State.faultFits_iff _).1 (faultFits_recoverStep (op := op) hf r)

/-- Settles O48: `recoverStep_stays`, and the fault record and the response register are as before. -/
theorem recoveryNeverFails : Obligations.RecoveryNeverFails := by
  intro op r s hp hf hh
  obtain ⟨hs, hstep⟩ := step_recovery hf hp hh
  obtain ⟨st, hphase, hst⟩ := recoverStep_stays op r { s with host := hs }
  exact ⟨_, st, hstep, fault_recoverStep (s := { s with host := hs }) hf r, hphase,
    resp_recoverStep op r { s with host := hs }, hst⟩

/-! ### Nested recovery (R180; log 12) -/

/-- With nesting, a wait of the epilogue whose budget a 1 uses up enters recovery again. -/
theorem epiloguePoll_reenters {op : Instr} {p : Flag} {first : Bool} {more next : RecStep} {s : State}
    (hnest : s.params.nestedRecovery = true) (hbit : s.env.drawBit.1 = true)
    (hlast : (if first then 0 else s.cnt) + 1 = s.params.timeout) :
    s.epiloguePoll op p first more next =
      { (s.poll p).2 with cnt := s.params.timeout, phase := .busy op (.recovery .enter) } := by
  rw [State.epiloguePoll_eq]
  simp [hnest, hbit, hlast]

/-- Settles O45: both waits' later polls are `epiloguePoll`s, and `epiloguePoll_reenters` says what they leave. -/
theorem nestedTimeoutReenters : Obligations.NestedTimeoutReenters := by
  intro op s rest hf hnest hbits hlast hp
  have hdraw := Env.drawBit_listed hbits
  have hbit : s.env.drawBit.1 = true := by rw [hdraw]
  have henv (p : Flag) : (s.poll p).2.env.bits = rest := by rw [State.poll_env, hdraw]
  rcases hp with hp | hp <;>
    exact ⟨_, execRecover_of_recoverStep hf hp (epiloguePoll_reenters (first := false) hnest hbit hlast), rfl, rfl,
      henv _⟩

/-- At recovery's steps up to the restart's wait: the stop is not begun. -/
def RecStep.beforeStop (r : RecStep) : Prop := r ∉ [RecStep.stopWrite, .stopPoll, .stopMore, .exit]

/-- With nesting, a step that draws a 1, if it draws, never comes as far as the stop: the restart's wait goes on, or
its timeout enters recovery again. -/
theorem beforeStop_recoverStep {op : Instr} {r : RecStep} {s : State} (hnest : s.params.nestedRecovery = true)
    (hbit : s.env.drawBit.1 = true) (hr : r.beforeStop) :
    ∃ r', (recoverStep op r s).phase = .busy op (.recovery r') ∧ r'.beforeStop := by
  cases r with
  | stopWrite | stopPoll | stopMore | exit => simp [RecStep.beforeStop] at hr
  | sample =>
    rw [recoverStep, State.recSample_eq]
    exact ⟨_, rfl, by simp [hbit, RecStep.beforeStop]⟩
  | restartPoll | restartMore =>
    rw [recoverStep, State.epiloguePoll_eq]
    refine ⟨_, rfl, ?_⟩
    simp only [hbit, hnest]
    split_ifs <;> simp_all [RecStep.beforeStop]
  | _ => exact ⟨_, rfl, by simp [RecStep.beforeStop]⟩

theorem env_recoverStep (op : Instr) (r : RecStep) (s : State) :
    (recoverStep op r s).env = s.env ∨ (recoverStep op r s).env = s.env.drawBit.2 := by
  cases r with
  | sample => exact .inr (by rw [recoverStep, State.recSample_eq, State.pinReadSda_env])
  | restartPoll | restartMore | stopPoll | stopMore =>
    exact .inr (by rw [recoverStep, State.epiloguePoll_eq, State.poll_env])
  | _ => exact .inl rfl

/-- At least `n` answers are listed, and every one of them is 1. -/
def Env.HighFor (n : Nat) (e : Env) : Prop := ∃ k, n ≤ k ∧ e.bits = List.replicate k true

theorem Env.HighFor.drawBit {n : Nat} {e : Env} (h : e.HighFor (n + 1)) :
    e.drawBit.1 = true ∧ e.drawBit.2.HighFor n := by
  obtain ⟨_ | k, hk, hbits⟩ := h
  · omega
  · rw [List.replicate_succ] at hbits
    rw [Env.drawBit_listed hbits]
    exact ⟨rfl, k, by omega, rfl⟩

/-- Nested recovery before its stop, undisturbed, the next `n` answers all 1. -/
structure NestedHigh (op : Instr) (n : Nat) (s : State) : Prop where
  phase : ∃ r, s.phase = .busy op (.recovery r) ∧ r.beforeStop
  fault : s.fault = none
  quiet : s.quiet = true
  nested : s.params.nestedRecovery = true
  env : s.env.HighFor n

/-- A quiet host leaves recovery to its next step. -/
theorem Runs.recovery {op : Instr} {r : RecStep} {s : State} (hf : s.fault = none)
    (hp : s.phase = .busy op (.recovery r)) (hq : s.quiet = true) : Runs 1 s (recoverStep op r s) :=
  .of_step ((step_busy_quiet hf hp ((State.quiet_iff s).1 hq)).trans (execRecover_recovery hf hp))

theorem NestedHigh.step {op : Instr} {n : Nat} {s : State} (h : NestedHigh op (n + 1) s) :
    ∃ t, Runs 1 s t ∧ NestedHigh op n t := by
  obtain ⟨r, hp, hr⟩ := h.phase
  obtain ⟨hbit, henv⟩ := h.env.drawBit
  refine ⟨_, .recovery h.fault hp h.quiet, beforeStop_recoverStep h.nested hbit hr, fault_recoverStep h.fault r,
    (State.quiet_congr (host_recoverStep op r s)).trans h.quiet,
    (congrArg Params.nestedRecovery (params_recoverStep r)).trans h.nested, ?_⟩
  rcases env_recoverStep op r s with he | he <;> rw [he]
  · obtain ⟨k, hk, hbits⟩ := h.env
    exact ⟨k, by omega, hbits⟩
  · exact henv

theorem NestedHigh.runs {op : Instr} {n : Nat} {s : State} (h : NestedHigh op n s) :
    ∃ t, Runs n s t ∧ NestedHigh op 0 t := by
  induction n generalizing s with
  | zero => exact ⟨s, rfl, h⟩
  | succ n ih =>
    obtain ⟨t, hrun, ht⟩ := h.step
    obtain ⟨u, hrun', hu⟩ := ih ht
    exact ⟨u, (hrun.trans hrun').cast (Nat.add_comm ..) rfl, hu⟩

/-- Settles O46: `N` answers that are all 1 keep recovery before its stop for `N` steps. -/
theorem nestedRecoveryUnbounded : Obligations.NestedRecoveryUnbounded := by
  intro op s N hp hf hq _ hnest
  have hstart : NestedHigh op N { s with env := { s.env with bits := List.replicate N true } } :=
    ⟨⟨.enter, hp, by simp [RecStep.beforeStop]⟩, hf, hq, hnest, N, le_rfl, rfl⟩
  obtain ⟨t, hrun, ht⟩ := hstart.runs
  obtain ⟨r, hr, -⟩ := ht.phase
  exact ⟨_, t, r, hrun, hr⟩

end Sys2Proof.Machine
end

section
namespace Sys2Proof.Machine

/-! ### A whole recovery, without nesting (R171 to R178, R181) -/

section
variable {op : Instr} {s : State}

/-- A run to a recovery stage goes on with recovery's step. -/
theorem Runs.recovery_next {n : Nat} {r : RecStep} {t : State} (h : Runs n s t) (hf : t.fault = none)
    (hp : t.phase = .busy op (.recovery r)) (hq : t.quiet = true) : Runs (n + 1) s (recoverStep op r t) :=
  h.trans (.recovery hf hp hq)

/-- The state when the pulses are to begin: the peripheral is initialised again and its pins are taken (R173 to
R175). -/
def State.pinsTaken (op : Instr) (s : State) : State :=
  { s with
    pcnt := 0, on := true, sen := false, rsen := false, pen := false, rcen := false, acken := false
    cfgTiming := s.params.cfgTiming, cfgMode := s.params.cfgMode
    pinOwner := .manual, sdaDir := .input, sclDir := .output
    ev := s.ev ++ [.recBegin, .wr (.on false), .wr (.cfgTiming s.params.cfgTiming),
      .wr (.cfgMode s.params.cfgMode), .wr (.on true), .own .manual, .dir .sda .input, .dir .scl .output]
    phase := .busy op (.recovery .lowWrite) }

theorem Runs.takePins (hf : s.fault = none) (hp : s.phase = .busy op (.recovery .enter)) (hq : s.quiet = true) :
    Runs 8 s (s.pinsTaken op) := by
  have h1 := Runs.recovery hf hp hq
  have h2 := h1.recovery_next hf rfl hq
  have h3 := h2.recovery_next hf rfl hq
  have h4 := h3.recovery_next hf rfl hq
  have h5 := h4.recovery_next hf rfl hq
  have h6 := h5.recovery_next hf rfl hq
  have h7 := h6.recovery_next hf rfl hq
  have h8 := h7.recovery_next hf rfl hq
  refine h8.cast rfl ?_
  simp [recoverStep, State.pinsTaken, State.goTo, State.log, State.setOwner, State.pinDir_sda, State.pinDir_scl,
    State.regWrite_on_zero, State.regWrite_cfgTiming, State.regWrite_cfgMode, State.regWrite_on_one]

/-- The state after whole pulses whose samples read `samples`, at step `next`; `e` are the answers left. -/
def State.pulsed (op : Instr) (samples : List Bit) (e : Env) (next : RecStep) (s : State) : State :=
  { s with
    env := e, sclLat := true, pcnt := s.pcnt + samples.length, ev := s.ev ++ samples.flatMap pulseEvents
    phase := .busy op (.recovery next) }

/-- One pulse and its sample: it is the last if the sample reads 1 or the cap is reached (R172). -/
theorem Runs.pulse {b : Bit} {e : Env} (hf : s.fault = none) (hp : s.phase = .busy op (.recovery .lowWrite))
    (hq : s.quiet = true) (hd : s.env.drawBit = (b, e)) :
    Runs 5 s
      (s.pulsed op [b] e (if b = true ∨ s.pcnt + 1 = s.params.recoveryCap then .release else .lowWrite)) := by
  have h1 := Runs.recovery hf hp hq
  have h2 := h1.recovery_next hf rfl hq
  have h3 := h2.recovery_next hf rfl hq
  have h4 := h3.recovery_next hf rfl hq
  refine (h4.recovery_next hf rfl hq).cast rfl ((recoverStep_sample (by exact hd)).trans ?_)
  simp only [recoverStep, State.pulsed, State.goTo, State.log, State.delay, State.pinWriteScl]
  split_ifs with hend <;> simp [pulseEvents, hend]

/-- The pulses end with the first sample that reads 1, or with the cap, `d + 1` pulses away. -/
theorem Runs.pulses (d : Nat) {s : State} (hf : s.fault = none) (hp : s.phase = .busy op (.recovery .lowWrite))
    (hq : s.quiet = true) (hd : s.pcnt + (d + 1) = s.params.recoveryCap) :
    ∃ j last e, j ≤ d ∧ (last = true ∨ j = d) ∧
      Runs (5 * (j + 1)) s (s.pulsed op (List.replicate j false ++ [last]) e .release) := by
  induction d generalizing s with
  | zero =>
    have hpulse := Runs.pulse hf hp hq rfl
    rw [if_pos (.inr hd)] at hpulse
    exact ⟨0, _, _, le_rfl, .inr rfl, hpulse⟩
  | succ d ih =>
    rcases hdraw : s.env.drawBit with ⟨b, e⟩
    have hpulse := Runs.pulse hf hp hq hdraw
    cases b with
    | true => exact ⟨0, true, e, Nat.zero_le _, .inl rfl, by simpa using hpulse⟩
    | false =>
      rw [if_neg (by simp; omega)] at hpulse
      obtain ⟨j, last, e', hj, hlast, hrun⟩ := ih (s := s.pulsed op [false] e .lowWrite) hf rfl hq
        (by simp only [State.pulsed, List.length_singleton]; omega)
      refine ⟨j + 1, last, e', by omega, hlast.imp_right (by omega), (hpulse.trans hrun).cast (by omega) ?_⟩
      simp [State.pulsed, List.replicate_succ]
      omega

/-! ### The waits of the epilogue (R177) -/

/-- The epilogue's two waits: the flag polled, the first poll, the later polls, and the step after the wait. -/
inductive EpilogueWait : Flag → RecStep → RecStep → RecStep → Prop
  | restart : EpilogueWait .rsen .restartPoll .restartMore .stopWrite
  | stop : EpilogueWait .pen .stopPoll .stopMore .exit

variable {p : Flag} {poll more next : RecStep}

theorem EpilogueWait.recoverStep_eq (h : EpilogueWait p poll more next) (op : Instr) (first : Bool) (s : State) :
    recoverStep op (if first then poll else more) s = s.epiloguePoll op p first more next := by
  cases h <;> cases first <;> rfl

/-- The state after polls of an epilogue wait that read `polled`, the last of them `last`, at step `next`; `c` are the
wait's polls so far and `e` the answers left. -/
def State.epiloguePolled (op : Instr) (p : Flag) (next : RecStep) (c : Nat) (polled : List Bit) (last : Bit) (e : Env)
    (s : State) : State :=
  { s with
    rsen := s.rsen && (last || p != .rsen), pen := s.pen && (last || p != .pen)
    env := e, cnt := c, ev := s.ev ++ pollEvents p polled, phase := .busy op (.recovery next) }

/-- Without nesting, a poll of the epilogue ends its wait if it reads 0 or uses up the budget. -/
theorem EpilogueWait.recoverStep_unnested (h : EpilogueWait p poll more next) {first : Bool} {b : Bit} {e : Env}
    (hnest : s.params.nestedRecovery = false) (hd : s.env.drawBit = (b, e)) :
    recoverStep op (if first then poll else more) s =
      s.epiloguePolled op p
        (if b = false ∨ (if first then 0 else s.cnt) + 1 = s.params.timeout then next else more)
        ((if first then 0 else s.cnt) + 1) [b] b e := by
  rw [h.recoverStep_eq, State.epiloguePoll_eq, State.poll_eq hd, hd]
  generalize (if first then 0 else s.cnt) = c
  cases h <;> cases b <;> simp [State.epiloguePolled, State.notePoll_eq, State.log, pollEvents, hnest]

/-- A wait of the epilogue ends with the first poll that reads 0, or with its budget, `d + 1` polls away. -/
theorem Runs.epilogueWait_from (h : EpilogueWait p poll more next) (d : Nat) {first : Bool} {s : State}
    (hf : s.fault = none) (hp : s.phase = .busy op (.recovery (if first then poll else more))) (hq : s.quiet = true)
    (hnest : s.params.nestedRecovery = false) (hd : (if first then 0 else s.cnt) + (d + 1) = s.params.timeout) :
    ∃ j last e, j ≤ d ∧ (last = false ∨ j = d) ∧
      Runs (j + 1) s
        (s.epiloguePolled op p next ((if first then 0 else s.cnt) + (j + 1)) (List.replicate j true ++ [last]) last
          e) := by
  induction d generalizing s first with
  | zero =>
    have hpoll := Runs.recovery hf hp hq
    rw [h.recoverStep_unnested hnest rfl, if_pos (.inr hd)] at hpoll
    exact ⟨0, _, _, le_rfl, .inr rfl, hpoll⟩
  | succ d ih =>
    rcases hdraw : s.env.drawBit with ⟨b, e⟩
    have hpoll := Runs.recovery hf hp hq
    rw [h.recoverStep_unnested hnest hdraw] at hpoll
    generalize (if first then 0 else s.cnt) = c at hd hpoll ⊢
    cases b with
    | false => exact ⟨0, false, e, Nat.zero_le _, .inl rfl, by simpa using hpoll⟩
    | true =>
      rw [if_neg (by simp; omega)] at hpoll
      obtain ⟨j, last, e', hj, hlast, hrun⟩ := ih (first := false)
        (s := s.epiloguePolled op p more (c + 1) [true] true e) hf rfl hq hnest
        (by simp only [State.epiloguePolled, Bool.false_eq_true, if_false]; omega)
      refine ⟨j + 1, last, e', by omega, hlast.imp_right (by omega), (hpoll.trans hrun).cast (by omega) ?_⟩
      simp [State.epiloguePolled, pollEvents, List.replicate_succ]
      omega

/-- A run to the first poll of an epilogue wait goes on to the step after the wait. -/
theorem Runs.epilogueWait {n : Nat} {t : State} (hrun : Runs n s t) (h : EpilogueWait p poll more next)
    (hf : t.fault = none) (hp : t.phase = .busy op (.recovery poll)) (hq : t.quiet = true)
    (hl : t.params.legal = true) (hnest : t.params.nestedRecovery = false) :
    ∃ j last e, j + 1 ≤ t.params.timeout ∧ (last = false ∨ j + 1 = t.params.timeout) ∧
      Runs (n + (j + 1)) s (t.epiloguePolled op p next (j + 1) (List.replicate j true ++ [last]) last e) := by
  obtain ⟨d, hd⟩ := Nat.exists_eq_succ_of_ne_zero ((Params.legal_iff _).1 hl).1.ne'
  obtain ⟨j, last, e, hj, hlast, hwait⟩ := Runs.epilogueWait_from h d (first := true) hf hp hq hnest (by simp [hd])
  exact ⟨j, last, e, by omega, hlast.imp_right (by omega), hrun.trans (by simpa using hwait)⟩

end

/-- Settles O44: the pins are taken, the pulses run, the lines go back to the peripheral, and the restart and the stop
are each a write and a wait of the epilogue. -/
theorem recoveryRun : Obligations.RecoveryRun := by
  intro op s hp hf hq hl hnest
  obtain ⟨d, hd⟩ := Nat.exists_eq_succ_of_ne_zero ((Params.legal_iff _).1 hl).2.ne'
  have htaken := Runs.takePins hf hp hq
  obtain ⟨k, last, e, hk, hlast, hpulses⟩ :=
    Runs.pulses d (s := s.pinsTaken op) hf rfl hq ((Nat.zero_add _).trans hd.symm)
  have hreleased := (htaken.trans hpulses).recovery_next hf rfl hq
  have hrestart := hreleased.recovery_next hf rfl hq
  obtain ⟨m1, e1, _, hm1, he1, hrestarted⟩ := hrestart.epilogueWait .restart hf rfl hq hl hnest
  have hstop := hrestarted.recovery_next hf rfl hq
  obtain ⟨m2, e2, _, hm2, he2, hstopped⟩ := hstop.epilogueWait .stop hf rfl hq hl hnest
  have hexit := hstopped.recovery_next hf rfl hq
  refine ⟨k + 1, m1 + 1, m2 + 1, last, e1, e2, _, _, _, _,
    rfl, by omega, by omega, hlast.imp_right (by omega), rfl, by omega, hm1, he1, rfl, by omega, hm2, he2,
    hexit.cast (by omega) rfl, ?ev, rfl, hf, rfl, rfl, rfl, rfl, rfl, rfl, rfl, rfl, rfl, rfl, ?rsen, ?pen,
    rfl, rfl, rfl, rfl, ?pcnt, rfl⟩
  case ev =>
    simp [recoverStep, State.pinsTaken, State.pulsed, State.epiloguePolled, State.leaveRecovery, recoveryEvents]
  case rsen => simp [recoverStep, State.epiloguePolled, State.leaveRecovery, State.regWrite_rsen, State.regWrite_pen]
  case pen => simp [recoverStep, State.epiloguePolled, State.leaveRecovery, State.regWrite_pen]
  case pcnt => simp [recoverStep, State.pinsTaken, State.pulsed, State.epiloguePolled, State.leaveRecovery]

end Sys2Proof.Machine
end

section
namespace Sys2Proof.Machine

/-! ### Faults: their priority, and the device reset that clears them (R204, R207, R230) -/

theorem step_device_reset {s : State} {rest : List HostMove} (hh : s.host = .reset :: rest)
    (hs : s.isStopped = true ∨ s.phase = .idle) : step s = .next (State.afterReset s.params rest s.env) := by
  cases hstop : s.isStopped with
  | true => simp [step, turn, hstop, stoppedTurn, hh, State.deviceReset]
  | false =>
    have hp : s.phase = .idle := hs.resolve_left (by simp [hstop])
    simp [step, turn, hstop, hp, idleTurn, hh, State.deviceReset]

theorem exec_stopped (i : Instr) {s : State} (h : s.isStopped = true) : exec i s = .fault (.stopped s.fault) := by
  cases hi : i.wellFormed with
  | true => rw [exec_eq_command hi, command_stopped h]
  | false =>
    cases i with
    | recover => simp [exec, execRecover, h]
    | _ => cases hi

theorem State.endedWell_of_fault {s : State} (h : s.fault ≠ none) : s.endedWell = false := by
  simp [State.endedWell, Option.isSome_iff_ne_none.2 h]

/-- Settles O20: a busy block's turn meets the offer first, an idle block decodes the word, and ON is asked of a legal
one. -/
theorem faultPriority : Obligations.FaultPriority := by
  intro s w rest hh
  refine ⟨fun hs => step_stopped (s.isStopped_iff.2 hs) (by simp [hh]), fun hnf hf => ?_⟩
  cases hp : s.phase with
  | faulted => exact absurd hp hnf
  | busy op st => exact ⟨_, step_busy_offer hf hp hh, by simp⟩
  | idle =>
    cases hd : decode w with
    | none =>
      have hill := (illegalWordFaults.1 w).1 hd
      exact ⟨_, illegalWordFaults.2 s w rest hp hf (.inr hh) hill, by simp [hill]⟩
    | some i =>
      have hi := wellFormed_of_decode hd
      have hlegal : illegalWord w ≠ true := fun h => by simp [(illegalWordFaults.1 w).2 h] at hd
      have hstep : step s = exec i { s with host := rest } := by rw [step_idle_word hf hp (.inr hh), hd]
      rw [busWord_eq_needsInit hd]
      by_cases hinit : needsInit i = true ∧ s.on = false
      · exact ⟨_, hstep.trans (exec_before_init hi hinit.1 hp hf hinit.2), by simp [hlegal, hinit]⟩
      · have hon : needsInit i = true → s.on = true := by simpa using hinit
        exact ⟨_, hstep.trans (exec_accept hi hp hf hon), by simp [hlegal, hinit, hf]⟩

/-- Settles O9: FAULTED or a fault recorded is a stopped block, which a reset leaves as an idle one does. -/
theorem deviceResetClears : Obligations.DeviceResetClears := by
  intro s rest hh hs
  refine step_device_reset hh ?_
  rw [s.isStopped_iff]
  exact hs.symm

/-- Settles O21: a fault recorded is a stopped block. -/
theorem faultsAreSticky : Obligations.FaultsAreSticky := by
  intro s hfault
  have hs : s.isStopped = true := s.isStopped_iff.2 (.inr hfault)
  exact ⟨fun i => exec_stopped i hs, fun hh => step_stopped hs hh, fun rest hh => step_device_reset hh (.inl hs),
    State.endedWell_of_fault hfault⟩

end Sys2Proof.Machine
end
